-- ==== Sys2Proof/Word.lean ====
section
/-! DEFINITION. The word types of the PMS5003 framer (spec/00_scope.md R11: bits are numbered from 0 at the least
significant bit, every value is unsigned) and what the request channel carries. -/

namespace Sys2Proof

/-- `u8` (R11): one byte of a stream or of an array. -/
abbrev Byte := BitVec 8

/-- `u16` (R11): a data word, a sum, a length field, a measurement field. -/
abbrev Half := BitVec 16

/-- A request word (spec/30_encoding.md R78). -/
abbrev Word := BitVec 32

/-- The 26-byte payload operand of an EXTRACT request (R26, R85): an array in wire order, with no bit layout. -/
abbrev Operand := Vector Byte 26

/-- What the host offers on the request channel (R78): the request word, and the payload operand, which only EXTRACT
takes (R84: `accept(w, opbuf)`). -/
structure Request where
  word   : Word
  opbuf  : Operand := Vector.replicate 26 0
  deriving DecidableEq, Repr

end Sys2Proof
end

