-- ==== Sys2Proof/Config.lean ====
section
/-! DEFINITION. What the source fixes (spec/00_scope.md R8), the one parameter of the block (R9), and the free values:
points the spec leaves open and about which nothing can be proved. -/

namespace Sys2Proof.Config

/-- MAX_PAYLOAD (R9, K1-13): "The spec's value for this hardware is 26". Log 14. -/
abbrev maxPayload : Nat := 26

/-- The first start byte of every frame (R8). -/
abbrev startByte1 : Byte := 0x42

/-- The second start byte of every frame (R8). -/
abbrev startByte2 : Byte := 0x4D

/-- The wire command code "change mode" (R76). -/
abbrev cmdChangeMode : Byte := 0xE1

/-- The wire command code "read in passive mode" (R76). -/
abbrev cmdReadPassive : Byte := 0xE2

/-- The wire command code "sleep/set" (R76). -/
abbrev cmdSleepSet : Byte := 0xE4

/-- The length of a command frame (R8, R70). -/
abbrev commandFrameLength : Nat := 7

/-- The payload length of a response frame (R8, R71). -/
abbrev responseLength : Nat := 2

/-- The payload length of a measurement frame (R8, R72). -/
abbrev measurementLength : Nat := 26

/-- The bytes of a received frame that are not payload: start bytes, length field, checksum (R73). -/
abbrev frameOverhead : Nat := 6

/-- FREE VALUE (K1-4, R61; log 5): whether the byte of the write at position `n` of the transport trace reached the wire,
where the transport answered `fail` or never returned. "It shall not assume that the byte did or did not reach the
sensor." -/
opaque attemptReaches : Nat → Bool

/-- FREE VALUE (K1-17, R231; log 6): whether a read that was outstanding when reset came, at position `n` of the
transport trace, consumed the next answer of the RX stream. -/
opaque abandonedReadConsumes : Nat → Bool

end Sys2Proof.Config
end

