-- ==== Sys2Proof/Syntax.lean ====
section
/-! DEFINITION. The instructions of the framer: one constructor for each row of spec/opcode_table.json, seven requests
(spec/30_encoding.md R80) and three wire commands (R76). -/

namespace Sys2Proof

/-- The operations a host can request, and the wire commands their encoder part sends. Operand widths are those of
R79 and R85; nothing is sign-extended, scaled or shifted. -/
inductive Instr where
  /-- ENCODE (R100): send a command frame with command byte `cmd` and data word `data`. -/
  | encode (cmd : Byte) (data : Half)
  /-- DECODE (R120): receive a frame whose expected payload length EXPLEN is `n`. -/
  | decode (n : Byte)
  /-- EXTRACT (R150): unpack the 26-byte operand into MEAS. -/
  | extract (payload : Operand)
  /-- SET_DATA_MODE (R170): MODE 0 is Passive and 1 is Active. -/
  | setDataMode (mode : BitVec 1)
  /-- GET_PASSIVE (R171). -/
  | getPassive
  /-- GET_ACTIVE (R172). -/
  | getActive
  /-- SLEEP_SET (R173): MODE 0 is Sleep and 1 is Wakeup. -/
  | sleepSet (mode : BitVec 1)
  /-- WIRE_CHANGE_MODE (R76, R170): the command frame `42 4D E1` with data 0x0000 Passive or 0x0001 Active, as the
  encoder part of SET_DATA_MODE sends it. -/
  | wireChangeMode (data : Half)
  /-- WIRE_READ_PASSIVE (R76, R171): the command frame `42 4D E2` with data 0x0000. -/
  | wireReadPassive
  /-- WIRE_SLEEP_SET (R76, R173): the command frame `42 4D E4` with data 0x0000 Sleep or 0x0001 Wakeup. -/
  | wireSleepSet (data : Half)
  deriving DecidableEq, Repr

end Sys2Proof
end

