-- ==== Sys2Proof/WellFormed.lean ====
section
/-! DEFINITION. Which instructions the encodings admit: the length bound of DECODE (spec/30_encoding.md R83) and the two
data values of the wire commands that carry data (R76). -/

namespace Sys2Proof

/-- "0x0000" or "0x0001", the data values that R76 gives a meaning. -/
abbrev admittedData (data : Half) : Bool := data == 0 || data == 1

/-- An instruction that some request word or some command frame spells. -/
def Instr.wf : Instr → Bool
  | .encode _ _ => true
  | .decode n => n.toNat ≤ Config.maxPayload
  | .extract _ => true
  | .setDataMode _ => true
  | .getPassive => true
  | .getActive => true
  | .sleepSet _ => true
  | .wireChangeMode data => admittedData data
  | .wireReadPassive => true
  | .wireSleepSet data => admittedData data

end Sys2Proof
end

