-- ==== Sys2Proof/Decode.lean ====
section
/-! DEFINITION. The decoder, total on every request word and every byte list, and after it the encoder
(spec/30_encoding.md R70 to R90), written from the spec's tables. -/

namespace Sys2Proof

/-! Byte order (spec/20_memory.md R56, R57): the high byte comes first. -/

/-- `v[15:8]`. -/
def hiByte (v : Half) : Byte := v.extractLsb' 8 8

/-- `v[7:0]`. -/
def loByte (v : Half) : Byte := v.extractLsb' 0 8

/-- `h ++ l`: two bytes received in this order make this value (R56). -/
def be16 (h l : Byte) : Half := h ++ l

/-! Request words. -/

/-- The seven operations of R80. -/
inductive Operation where
  | encode | decode | extract | setDataMode | getPassive | getActive | sleepSet
  deriving DecidableEq, Repr

/-- The operation code OP of R80. -/
def Operation.code : Operation → BitVec 4
  | .encode => 0x1
  | .decode => 0x2
  | .extract => 0x3
  | .setDataMode => 0x4
  | .getPassive => 0x5
  | .getActive => 0x6
  | .sleepSet => 0x7

/-- The operation an OP value names; 0x0 and 0x8 to 0xF are reserved (R81). -/
def Operation.ofCode (op : BitVec 4) : Option Operation :=
  match op.toNat with
  | 1 => some .encode
  | 2 => some .decode
  | 3 => some .extract
  | 4 => some .setDataMode
  | 5 => some .getPassive
  | 6 => some .getActive
  | 7 => some .sleepSet
  | _ => none

/-- One row of the operation code map of R80. -/
structure RequestRow where
  operation : Operation
  pattern   : Word
  mask      : Word
  deriving DecidableEq, Repr

/-- "A word `w` selects a row when `w AND mask == match`" (R80). -/
def RequestRow.selects (row : RequestRow) (w : Word) : Bool := (w &&& row.mask) == row.pattern

/-- The operation code map (R80). -/
def requestRows : List RequestRow :=
  [⟨.encode,      0x10000000, 0xFF000000⟩,
   ⟨.decode,      0x20000000, 0xFFFFFF00⟩,
   ⟨.extract,     0x30000000, 0xFFFFFFFF⟩,
   ⟨.setDataMode, 0x40000000, 0xFFFFFFFE⟩,
   ⟨.getPassive,  0x50000000, 0xFFFFFFFF⟩,
   ⟨.getActive,   0x60000000, 0xFFFFFFFF⟩,
   ⟨.sleepSet,    0x70000000, 0xFFFFFFFE⟩]

/-- OP, bits 31 to 28 of the request word (R78). -/
def opField (w : Word) : BitVec 4 := w.extractLsb' 28 4

/-- CMD, bits 23 to 16 (R79, format C). -/
def cmdField (w : Word) : Byte := w.extractLsb' 16 8

/-- DATA, bits 15 to 0 (R79, format C). -/
def dataField (w : Word) : Half := w.extractLsb' 0 16

/-- EXPLEN, bits 7 to 0 (R79, format L). -/
def explenField (w : Word) : Byte := w.extractLsb' 0 8

/-- MODE, bit 0 (R79, format M). -/
def modeField (w : Word) : BitVec 1 := w.extractLsb' 0 1

/-- The instruction of an operation, its operands taken from the request (R85). -/
def Operation.instrOf (op : Operation) (r : Request) : Instr :=
  match op with
  | .encode => .encode (cmdField r.word) (dataField r.word)
  | .decode => .decode (explenField r.word)
  | .extract => .extract r.opbuf
  | .setDataMode => .setDataMode (modeField r.word)
  | .getPassive => .getPassive
  | .getActive => .getActive
  | .sleepSet => .sleepSet (modeField r.word)

/-- Why a word or a frame spells no instruction. -/
inductive Reject where
  /-- OP is 0x0 or 0x8 to 0xF (R81). -/
  | reservedOpcode
  /-- OP is defined and a reserved bit is set (R82). -/
  | reservedBits
  /-- A DECODE whose EXPLEN is above MAX_PAYLOAD (R83). -/
  | payloadTooLong
  /-- A byte list that is none of the three command frames of R76. -/
  | notAWireCommand
  deriving DecidableEq, Repr

/-- The decoder of requests (R80 to R83). -/
def decodeRequest (r : Request) : Except Reject Instr :=
  match requestRows.find? (·.selects r.word) with
  | some row =>
    if (row.operation.instrOf r).wf then .ok (row.operation.instrOf r) else .error .payloadTooLong
  | none =>
    match Operation.ofCode (opField r.word) with
    | some _ => .error .reservedBits
    | none => .error .reservedOpcode

/-! Command frames. -/

/-- The checksum of a command frame (R102): the sum modulo 65536 of the five bytes before it (R75). -/
def chkCmd (cmd : Byte) (data : Half) : Half :=
  Config.startByte1.setWidth 16 + Config.startByte2.setWidth 16 + cmd.setWidth 16
    + (hiByte data).setWidth 16 + (loByte data).setWidth 16

/-- The 7-byte command frame, in wire order (R70). -/
def commandFrame (cmd : Byte) (data : Half) : List Byte :=
  [Config.startByte1, Config.startByte2, cmd, hiByte data, loByte data,
   hiByte (chkCmd cmd data), loByte (chkCmd cmd data)]

/-- One wire_command row of the opcode table (R76): `match` and `mask` over the first three bytes of the frame, read as
one 24-bit big-endian value. -/
structure WireRow where
  cmd     : Byte
  pattern : BitVec 24
  mask    : BitVec 24
  deriving DecidableEq, Repr

/-- The three wire_command rows (R76). -/
def wireRows : List WireRow :=
  [⟨Config.cmdChangeMode,  0x424DE1, 0xFFFFFF⟩,
   ⟨Config.cmdReadPassive, 0x424DE2, 0xFFFFFF⟩,
   ⟨Config.cmdSleepSet,    0x424DE4, 0xFFFFFF⟩]

/-- The decoder of command frames: the row is named by the first three bytes (R76), the operand is the data word. The
two checksum bytes are no operand, since the encoder computes them (R102), and are not compared. Log 12. -/
def decodeFrame (bytes : List Byte) : Except Reject Instr :=
  match bytes with
  | [b0, b1, cmd, hi, lo, _, _] =>
    match wireRows.find? (fun row => ((b0 ++ b1 ++ cmd : BitVec 24) &&& row.mask) == row.pattern) with
    | some row =>
      if row.cmd = Config.cmdChangeMode ∧ admittedData (be16 hi lo) then .ok (.wireChangeMode (be16 hi lo))
      else if row.cmd = Config.cmdReadPassive ∧ be16 hi lo = 0 then .ok .wireReadPassive
      else if row.cmd = Config.cmdSleepSet ∧ admittedData (be16 hi lo) then .ok (.wireSleepSet (be16 hi lo))
      else .error .notAWireCommand
    | none => .error .notAWireCommand
  | _ => .error .notAWireCommand

/-- What spells an instruction: a request on the request channel, or a command frame on the wire. -/
inductive Code where
  | request (r : Request)
  | frame (bytes : List Byte)
  deriving DecidableEq, Repr

/-- The decoder: total, rejecting by name. -/
def decodeCode : Code → Except Reject Instr
  | .request r => decodeRequest r
  | .frame bytes => decodeFrame bytes

/-! The encoder (R70, R79, R80, R90). -/

/-- A word of format C (R79). -/
def formatC (op : BitVec 4) (cmd : Byte) (data : Half) : Word := op ++ (0 : BitVec 4) ++ cmd ++ data

/-- A word of format L (R79). -/
def formatL (op : BitVec 4) (explen : Byte) : Word := op ++ (0 : BitVec 20) ++ explen

/-- A word of format M (R79). -/
def formatM (op : BitVec 4) (mode : BitVec 1) : Word := op ++ (0 : BitVec 27) ++ mode

/-- A word of format N (R79). -/
def formatN (op : BitVec 4) : Word := op ++ (0 : BitVec 28)

/-- The request word or the command frame of an instruction. -/
def encode : Instr → Code
  | .encode cmd data => .request { word := formatC 0x1 cmd data }
  | .decode n => .request { word := formatL 0x2 n }
  | .extract payload => .request { word := formatN 0x3, opbuf := payload }
  | .setDataMode mode => .request { word := formatM 0x4 mode }
  | .getPassive => .request { word := formatN 0x5 }
  | .getActive => .request { word := formatN 0x6 }
  | .sleepSet mode => .request { word := formatM 0x7 mode }
  | .wireChangeMode data => .frame (commandFrame Config.cmdChangeMode data)
  | .wireReadPassive => .frame (commandFrame Config.cmdReadPassive 0)
  | .wireSleepSet data => .frame (commandFrame Config.cmdSleepSet data)

/-! The numbering of spec/opcode_table.json. -/

/-- Byte `k` of a number, counted from its least significant byte. -/
def byteAt (w k : Nat) : Byte := BitVec.ofNat 8 (w >>> (8 * k))

/-- What an opcode-table number of `nbits` bits stands for (log 16). A wire_command row is 24 bits, "read as one 24-bit
big-endian value" (R76): the first byte of the frame is the most significant one, and the operand bytes that follow are
zeros; written out whole it is 56 bits. A request row is one 32-bit word; an EXTRACT operand would follow it, byte `i`
in bits `32 + 8i` and up. -/
def codeOfTable (nbits w : Nat) : Code :=
  if nbits ≤ 24 then .frame [byteAt w 2, byteAt w 1, byteAt w 0, 0, 0, 0, 0]
  else if nbits = 56 then
    .frame [byteAt w 6, byteAt w 5, byteAt w 4, byteAt w 3, byteAt w 2, byteAt w 1, byteAt w 0]
  else .request { word := BitVec.ofNat 32 w, opbuf := Vector.ofFn fun i => byteAt w (4 + i.val) }

/-- The instruction the decoder reads from an opcode-table number. -/
def decodeTableWord (nbits w : Nat) : Option Instr := (decodeCode (codeOfTable nbits w)).toOption

end Sys2Proof
end

