-- ==== Sys2Proof/Machine/State.lean ====
section
/-! DEFINITION. The state of the framer (spec/10_state.md R20 to R41), the ways a step can stop, and the state after
reset (spec/70_reset_and_hazards.md R230). -/

namespace Sys2Proof.Machine

/-- PHASE (R27). -/
inductive Phase where
  | idle | busy
  deriving DecidableEq, Repr

/-- STEP (R28): the sub-operation in progress. -/
inductive SubOp where
  | enc | dec | ver | ext
  deriving DecidableEq, Repr

/-- What the transport answers to `TxWrite` (R34): `ok`, `fail`, or it never returns. -/
inductive TxAnswer where
  | ok | fail | never
  deriving DecidableEq, Repr

/-- What the transport answers to `RxRead` (R34): `ok(b)`, `fail`, or it never returns. -/
inductive RxAnswer where
  | byte (b : Byte) | fail | never
  deriving DecidableEq, Repr

/-- A transport call (R12, R34). -/
inductive Call where
  | write (b : Byte) | read
  deriving DecidableEq, Repr

/-- One entry of the transport trace (R216): a call with its answer. -/
inductive Event where
  | write (b : Byte) (answer : TxAnswer)
  | read (answer : RxAnswer)
  deriving DecidableEq, Repr

/-- The result part of a response (R38): empty, absent after a failure, payload bytes, or the measurement record. -/
inductive Result where
  | empty
  | absent
  | payload (bytes : List Byte)
  | measurement (meas : Vector Half 12)
  deriving DecidableEq, Repr

/-- The response to an accepted request: `(STATUS, result)` (R38). -/
structure Response where
  status : BitVec 3
  result : Result
  deriving DecidableEq, Repr

/-- The machine: the registers of R41, and what lies on the request channel, on the response channel, at the transport
and on the reset input. -/
structure State where
  /-- PHASE (R27). -/
  phase : Phase
  /-- STEP (R28). -/
  step : SubOp
  /-- OP (R21): the operation code of the accepted request. -/
  op : BitVec 4
  /-- CMD (R22). -/
  cmd : Byte
  /-- DATA (R23). -/
  data : Half
  /-- MODE (R24). -/
  mode : BitVec 1
  /-- EXPLEN (R25). -/
  explen : Byte
  /-- OPBUF[0..25] (R26). -/
  opbuf : Operand
  /-- IDX (R29): the index of the next frame byte. -/
  idx : Byte
  /-- SUM (R30): the running checksum. -/
  sum : Half
  /-- LEN (R31): the received length field. -/
  len : Half
  /-- RXCHK (R32): the received checksum. -/
  rxchk : Half
  /-- PAYLOAD[0..MAX_PAYLOAD-1] (R33). -/
  payload : Vector Byte Config.maxPayload
  /-- PLEN (R33): the number of valid payload bytes. -/
  plen : Byte
  /-- STATUS (R35). -/
  status : BitVec 3
  /-- RESULT_VALID (R36). -/
  resultValid : Bool
  /-- MEAS[0..11] (R37). -/
  meas : Vector Half 12
  /-- The requests the host offers and holds (R20, R84, R245), oldest first. -/
  requests : List Request
  /-- The responses given (R38), oldest first. -/
  responses : List Response
  /-- What the transport will answer to the next writes (R34); beyond the list no call returns. -/
  txAnswers : List TxAnswer
  /-- What the transport will answer to the next reads (R34); beyond the list no call returns. -/
  rxAnswers : List RxAnswer
  /-- The transport trace (R216): the calls that have returned or were abandoned, with their answers, oldest first. -/
  trace : List Event
  /-- The call that has not returned (R34, R209). -/
  pending : Option Call
  /-- The reset input (R231): one sample a step, not asserted beyond the list. -/
  resetLine : List Bool
  deriving DecidableEq, Repr

/-- Why the machine stops with a fault. The spec has no machine fault (its errors are outcomes of an operation,
R200): both constructors guard states that no run reaches (R39, log 13). -/
inductive Fault where
  /-- Raised by the meanings and by the fetch where PHASE is BUSY and STEP, IDX or OP name no step of the operation's
  rule. Safe: no run reaches such a state. -/
  | sequencer
  /-- Raised by the decoder's write to PAYLOAD at an offset from MAX_PAYLOAD on, which the spec says does not exist
  (R33, R50). Safe: no run reaches it, since longer requests are refused (R83). -/
  | payloadOffset
  deriving DecidableEq, Repr

/-- Why the machine refuses. -/
inductive Refusal where
  /-- Raised by `exec` for an instruction that has no meaning yet. No arm does. Safe. -/
  | notModelled (mnemonic : String)
  /-- Raised by the fetch: the request word has a reserved OP (R81). Safe: the spec says it is refused. -/
  | reservedOpcode
  /-- Raised by the fetch: the request word has a reserved bit set (R82). Safe: the spec says it is refused. -/
  | reservedBits
  /-- Raised by the fetch and by DECODE: EXPLEN is above MAX_PAYLOAD (R83). Safe: the spec says it is refused. -/
  | payloadTooLong
  /-- Raised by a wire command where no operation is in progress: it is no request (R76), and in IDLE the core makes no
  transport call (R27). Safe. -/
  | notARequest
  deriving DecidableEq, Repr

/-- The machine right after reset (R230, R41): PHASE is IDLE, STATUS is 0, RESULT_VALID is 0. Every other register
"holds no value" there; the model names the value ENC for STEP and zero for the others (DESIGN CHOICE, unsafe, log 1).
No request is offered, no response is given, no transport is attached (R234; log 3). -/
def State.reset : State where
  phase := .idle
  step := .enc
  op := 0
  cmd := 0
  data := 0
  mode := 0
  explen := 0
  opbuf := Vector.replicate 26 0
  idx := 0
  sum := 0
  len := 0
  rxchk := 0
  payload := Vector.replicate Config.maxPayload 0
  plen := 0
  status := 0
  resultValid := false
  meas := Vector.replicate 12 0
  requests := []
  responses := []
  txAnswers := []
  rxAnswers := []
  trace := []
  pending := none
  resetLine := []

end Sys2Proof.Machine
end

