-- ==== Sys2Proof/Machine/Flags.lean ====
section
/-! DEFINITION. The two status registers: the error kinds and their STATUS codes (spec/60_exceptions.md R200), and what
RESULT_VALID becomes (spec/10_state.md R36, R204). -/

namespace Sys2Proof.Machine

/-- The error kinds of R200. `None`, the success value, is no kind here: R204 writes its code 0. EmptyData (code 7) is
no kind either, because no rule raises it (R202). -/
inductive ErrorKind where
  | writeFailure
  | readFailure
  | invalidStartChar
  | unexpectedFrameLength
  | badChecksum
  | unexpectedResponse
  deriving DecidableEq, Repr

/-- The STATUS code of a kind (R200). -/
def ErrorKind.code : ErrorKind → BitVec 3
  | .writeFailure => 1
  | .readFailure => 2
  | .invalidStartChar => 3
  | .unexpectedFrameLength => 4
  | .badChecksum => 5
  | .unexpectedResponse => 6

/-- The code of `None` (R200). -/
def statusNone : BitVec 3 := 0

/-- RESULT_VALID at success: "1 if result is PAYLOAD or MEAS, else 0" (R204). -/
def Result.valid : Result → Bool
  | .payload _ => true
  | .measurement _ => true
  | .empty => false
  | .absent => false

end Sys2Proof.Machine
end

