-- ==== Sys2Proof/Machine/Operands.lean ====
section
/-! DEFINITION. The operand forms: the bytes of the frames by index (spec/30_encoding.md R70 to R73), the two-byte reads
of an array (spec/00_scope.md R12), and the sum (spec/10_state.md R30). -/

namespace Sys2Proof.Machine

/-- `SUM +16 zext_16(b)` (R30). -/
def addByte (sum : Half) (b : Byte) : Half := sum + b.setWidth 16

/-- `zext_16(MODE)` (R23, D25). -/
def modeData (mode : BitVec 1) : Half := mode.setWidth 16

/-- `zext_8(MODE)` (R174). -/
def modeByte (mode : BitVec 1) : Byte := mode.setWidth 8

/-- The byte ENC writes at an index below 7 (R101), `sum` being SUM before the write. -/
def encoderByte (cmd : Byte) (data sum : Half) (idx : Nat) : Byte :=
  match idx with
  | 0 => Config.startByte1
  | 1 => Config.startByte2
  | 2 => cmd
  | 3 => hiByte data
  | 4 => loByte data
  | 5 => hiByte sum
  | _ => loByte sum

/-- SUM after ENC's write at an index is accepted (R101): the checksum bytes are not summed. -/
def encoderSum (cmd : Byte) (data sum : Half) (idx : Nat) : Half :=
  if idx < 5 then addByte sum (encoderByte cmd data sum idx) else sum

/-- The fields of a received frame (R73, R121). -/
inductive FrameField where
  | start1
  | start2
  | lenHi
  | lenLo
  | payload (i : Nat)
  | chkHi
  | chkLo
  deriving DecidableEq, Repr

/-- The field at an index of a received frame with expected payload length `n`; no field lies at `n + 6` or beyond
(R73, R121). -/
def fieldAt (n idx : Nat) : Option FrameField :=
  if idx = 0 then some .start1
  else if idx = 1 then some .start2
  else if idx = 2 then some .lenHi
  else if idx = 3 then some .lenLo
  else if idx < 4 + n then some (.payload (idx - 4))
  else if idx = 4 + n then some .chkHi
  else if idx = 5 + n then some .chkLo
  else none

/-- `v` with bits 15 to 8 replaced (R120: `LEN[15:8] <- b`). -/
def setHi (v : Half) (b : Byte) : Half := b ++ loByte v

/-- `v` with bits 7 to 0 replaced (R120: `LEN[7:0] <- b`). -/
def setLo (v : Half) (b : Byte) : Half := hiByte v ++ b

/-- `MemRead(2*i, 2)` for the 12 measurement fields, big-endian (R12, R150). Bytes 24 and 25 are not read (R151). -/
def measurementFields {n : Nat} (a : Vector Byte n) (h : 24 ≤ n) : Vector Half 12 :=
  Vector.ofFn fun i : Fin 12 => be16 (a[2 * i.val]'(by omega)) (a[2 * i.val + 1]'(by omega))

/-- `PAYLOAD[0..n-1]` (R127). -/
def payloadPart (payload : Vector Byte Config.maxPayload) (n : Nat) : List Byte := payload.toList.take n

/-- The 16-bit sum of a list of bytes (R30, R75). -/
def sumBytes (bytes : List Byte) : Half := bytes.foldl addByte 0

/-- The summed part of a received frame (R73, R75): start bytes, length field (payload length plus 2, R74), payload. The
block never builds one; statements about DEC name it. -/
def frameHead (payload : List Byte) : List Byte :=
  [Config.startByte1, Config.startByte2, hiByte (BitVec.ofNat 16 (payload.length + 2)),
    loByte (BitVec.ofNat 16 (payload.length + 2))] ++ payload

/-- The two checksum bytes of a value, high byte first (R56). -/
def bytesOf (v : Half) : List Byte := [hiByte v, loByte v]

/-- The received frame, in wire order, that DEC accepts for a payload (R73). -/
def receivedFrame (payload : List Byte) : List Byte :=
  frameHead payload ++ bytesOf (sumBytes (frameHead payload))

end Sys2Proof.Machine
end

