-- ==== Sys2Proof/Machine/Ops.lean ====
section
/-! DEFINITION. The shared operations: ending an operation with an error or with success (spec/60_exceptions.md R203,
R204), the two transport calls (spec/10_state.md R34), acceptance (spec/30_encoding.md R84), the sub-operations ENC, DEC,
EXT and VER, reset (spec/70_reset_and_hazards.md R231), and what the host and the wire show. -/

namespace Sys2Proof.Machine

/-- The outcome of a step of this machine. -/
abbrev Result3 := Host.Outcome State Fault Refusal

/-! Ending an operation. -/

/-- `raise E` (R203): the one way an operation ends with an error. Nothing is retried or cleaned up, and the response
carries no result. -/
def raise (kind : ErrorKind) (s : State) : State :=
  { s with
    status := kind.code, resultValid := false, phase := .idle,
    responses := s.responses ++ [{ status := kind.code, result := .absent }] }

/-- `complete(result)` (R204): the one way an operation ends with success. -/
def complete (result : Result) (s : State) : State :=
  { s with
    status := statusNone, resultValid := result.valid, phase := .idle,
    responses := s.responses ++ [{ status := statusNone, result := result }] }

/-! The transport. -/

/-- `TxWrite(b)` (R12, R34, R51): one call, whose answer is the next of `txAnswers`. On `ok` the step goes on with
`onOk`; on `fail` it raises WriteFailure (R103); a call that never returns stays pending and the operation makes no
further step (R209; log 4). -/
def txWrite (b : Byte) (onOk : State → State) (s : State) : State :=
  match s.txAnswers with
  | .ok :: rest => onOk { s with txAnswers := rest, trace := s.trace ++ [.write b .ok] }
  | .fail :: rest =>
    raise .writeFailure { s with txAnswers := rest, trace := s.trace ++ [.write b .fail] }
  | .never :: rest => { s with txAnswers := rest, pending := some (.write b) }
  | [] => { s with pending := some (.write b) }

/-- `RxRead()` (R12, R34, R52): one call, whose answer is the next of `rxAnswers`. On `ok(b)` the step goes on with
`onByte b`; on `fail` it raises ReadFailure (R120); a call that never returns stays pending (R209; log 4). -/
def rxRead (onByte : Byte → State → Result3) (s : State) : Result3 :=
  match s.rxAnswers with
  | .byte b :: rest => onByte b { s with rxAnswers := rest, trace := s.trace ++ [.read (.byte b)] }
  | .fail :: rest =>
    .next (raise .readFailure { s with rxAnswers := rest, trace := s.trace ++ [.read .fail] })
  | .never :: rest => .next { s with rxAnswers := rest, pending := some .read }
  | [] => .next { s with pending := some .read }

/-! Acceptance and the start of a sub-operation. -/

/-- What acceptance does for every request (R84): OP is latched, RESULT_VALID becomes 0 and PHASE becomes BUSY. -/
def accept (op : Operation) (s : State) : State :=
  { s with op := op.code, resultValid := false, phase := .busy }

/-- The start of ENC(CMD, DATA) (R100): CMD and DATA hold its operands, SUM and IDX become 0. -/
def beginEnc (cmd : Byte) (data : Half) (s : State) : State :=
  { s with cmd := cmd, data := data, step := .enc, sum := 0, idx := 0 }

/-- The start of DEC(n) (R120): EXPLEN holds its operand, SUM and IDX become 0. -/
def beginDec (n : Byte) (s : State) : State :=
  { s with explen := n, step := .dec, sum := 0, idx := 0 }

/-- The start of VER (R174). -/
def beginVer (s : State) : State := { s with step := .ver }

/-- The start of EXT (R150). -/
def beginExt (s : State) : State := { s with step := .ext }

/-! The sub-operations. -/

/-- One step of ENC (R100, R101): the `TxWrite` at IDX and, when it returns `ok`, the update of SUM and IDX; after index
6 the operation goes on with `after`. -/
def encStep (cmd : Byte) (data : Half) (after : State → State) (s : State) : State :=
  txWrite (encoderByte cmd data s.sum s.idx.toNat)
    (fun t =>
      let t' := { t with sum := encoderSum cmd data t.sum t.idx.toNat, idx := t.idx + 1 }
      if t.idx = 6 then after t' else t') s

/-- ENC(cmd, data) where a command frame is in progress, at an index from 0 to 6; a wire command runs nowhere else. -/
def sendFrame (cmd : Byte) (data : Half) (after : State → State) (s : State) : Result3 :=
  if s.step = .enc ∧ s.idx.toNat < Config.commandFrameLength then .next (encStep cmd data after s)
  else .fault .sequencer

/-- The update that every summed byte of DEC makes (R121): SUM and IDX. -/
def summed (b : Byte) (s : State) : State := { s with sum := addByte s.sum b, idx := s.idx + 1 }

/-- The check of a step of DEC (R121): where it fails the operation ends with the error. -/
def check (ok : Bool) (kind : ErrorKind) (s : State) : State := if ok then s else raise kind s

/-- `MemWrite(i, 1, b)` to PAYLOAD (R12, R33). -/
def writePayload (i : Nat) (b : Byte) (s : State) : Result3 :=
  if h : i < Config.maxPayload then .next { s with payload := s.payload.set i b h }
  else .fault .payloadOffset

/-- What DEC(n) does with the byte of one frame field (R120, R121): update, then the check whose last byte it is; after
the last check the operation goes on with `after`. -/
def decodeField (n : Nat) (after : State → State) (field : FrameField) (b : Byte) (s : State) : Result3 :=
  match field with
  | .start1 => .next (check (b == Config.startByte1) .invalidStartChar (summed b s))
  | .start2 => .next (check (b == Config.startByte2) .invalidStartChar (summed b s))
  | .lenHi => .next { summed b s with len := setHi s.len b }
  | .lenLo =>
    .next (check (setLo s.len b == BitVec.ofNat 16 (n + 2)) .unexpectedFrameLength
      { summed b s with len := setLo s.len b })
  | .payload i => writePayload i b (summed b s)
  | .chkHi => .next { s with rxchk := setHi s.rxchk b, idx := s.idx + 1 }
  | .chkLo =>
    if setLo s.rxchk b = s.sum then
      .next (after { s with rxchk := setLo s.rxchk b, idx := s.idx + 1, plen := BitVec.ofNat 8 n })
    else .next (raise .badChecksum { s with rxchk := setLo s.rxchk b, idx := s.idx + 1 })

/-- One step of DEC(n) (R120, R121): the `RxRead` at IDX; after the last byte of an accepted frame the operation goes on
with `after`. -/
def decStep (n : Nat) (after : State → State) (s : State) : Result3 :=
  match fieldAt n s.idx.toNat with
  | some field => rxRead (decodeField n after field) s
  | none => .fault .sequencer

/-- EXT(A) and the completion with MEAS (R150). -/
def extractAndComplete {n : Nat} (a : Vector Byte n) (h : 24 ≤ n) (s : State) : State :=
  complete (.measurement (measurementFields a h)) { s with meas := measurementFields a h }

/-- VER(c, m) and, where the echo matches, the completion with an empty result (R174, R170, R173). -/
def verifyAndComplete (c m : Byte) (s : State) : State :=
  if s.payload[0] ≠ c ∨ s.payload[1] ≠ m then raise .unexpectedResponse s else complete .empty s

/-! Reset. -/

/-- The transport event of a call that has not returned. -/
def Call.abandoned : Call → Event
  | .write b => .write b .never
  | .read => .read .never

/-- The transport trace as it stands (R105): a call that has not returned ends it. -/
def State.observedTrace (s : State) : List Event :=
  s.trace ++ (s.pending.map Call.abandoned).toList

/-- Whether a read outstanding at reset takes the next answer of the RX stream: "consumed or not, either way" (R231,
K1-17). A free value, log 6. -/
def State.abandonedReadConsumes (s : State) : Bool :=
  s.pending = some .read && Config.abandonedReadConsumes s.trace.length

/-- Reset (R230, R231, R232): the registers take their reset values; the operation in progress is abandoned with no
response; the host's requests, the responses given and the transport stay, an outstanding call stays in the trace. -/
def takeReset (s : State) : State :=
  { State.reset with
    requests := s.requests
    responses := s.responses
    txAnswers := s.txAnswers
    rxAnswers := if s.abandonedReadConsumes then s.rxAnswers.drop 1 else s.rxAnswers
    trace := s.observedTrace
    resetLine := s.resetLine }

/-! What the host and the wire show. -/

/-- The result the host can read (R36, R37, R38, R40, R203): MEAS or PAYLOAD[0..PLEN-1] only while RESULT_VALID is 1,
by the operation that gave it; after a failure nothing that the operation left is shown (D8, log 10). -/
def State.visibleResult (s : State) : Result :=
  if s.resultValid then
    if s.op = Operation.decode.code then .payload (payloadPart s.payload s.plen.toNat) else .measurement s.meas
  else if s.status = statusNone then .empty else .absent

/-- The bytes on the TX wire after a trace whose first event has position `n` (R51, R61): an accepted byte is there; a
failed or never returned one is there or not, a free value (K1-4, log 5). -/
def wireFrom (n : Nat) : List Event → List Byte
  | [] => []
  | .write b .ok :: rest => b :: wireFrom (n + 1) rest
  | .write b _ :: rest => if Config.attemptReaches n then b :: wireFrom (n + 1) rest else wireFrom (n + 1) rest
  | .read _ :: rest => wireFrom (n + 1) rest

/-- The TX stream (R50, R51). -/
def State.wire (s : State) : List Byte := wireFrom 0 s.observedTrace

end Sys2Proof.Machine
end

