-- ==== Sys2Proof/Machine/Extractor.lean ====
section
/-! DEFINITION. EXTRACT (spec/42_extractor.md R150 to R155). -/

namespace Sys2Proof.Machine

/-- EXTRACT (R150): OPBUF is latched with the request (R84) and EXT(OPBUF) starts; then EXT and the completion, one step
without a transport call. -/
def execExtract (a : Operand) (s : State) : Result3 :=
  match s.phase with
  | .idle => .next (beginExt { accept .extract s with opbuf := a })
  | .busy => if s.step = .ext then .next (extractAndComplete a (by decide) s) else .fault .sequencer

end Sys2Proof.Machine
end

