-- ==== Sys2Proof/Machine/FrameDecoder.lean ====
section
/-! DEFINITION. DECODE (spec/41_frame_decoder.md R120 to R132). -/

namespace Sys2Proof.Machine

/-- DECODE (R120): EXPLEN is latched and DEC(EXPLEN) runs; success gives PAYLOAD[0..PLEN-1] (R127). An EXPLEN above
MAX_PAYLOAD is refused (R83). -/
def execDecode (n : Byte) (s : State) : Result3 :=
  match s.phase with
  | .idle =>
    if n.toNat ≤ Config.maxPayload then .next (beginDec n (accept .decode s)) else .refused .payloadTooLong
  | .busy =>
    if s.step = .dec then
      if s.idx.toNat = n.toNat + Config.frameOverhead then
        .next (complete (.payload (payloadPart s.payload s.plen.toNat)) s)
      else decStep n.toNat id s
    else .fault .sequencer

end Sys2Proof.Machine
end

