-- ==== Sys2Proof/Machine/FrameEncoder.lean ====
section
/-! DEFINITION. ENCODE (spec/40_frame_encoder.md R100 to R107) and the wire commands (spec/30_encoding.md R76).

`exec i s` is one step of instruction `i`. In IDLE it is acceptance (R84). In BUSY, where `i` is the operation in
progress with its latched operands (R66), it is that operation's next step: one transport call with its updates and
checks, or the completion (R13, D1; log 2). -/

namespace Sys2Proof.Machine

/-- ENCODE (R100). -/
def execEncode (cmd : Byte) (data : Half) (s : State) : Result3 :=
  match s.phase with
  | .idle => .next (beginEnc cmd data (accept .encode s))
  | .busy =>
    if s.step = .enc ∧ s.idx.toNat = Config.commandFrameLength then .next (complete .empty s)
    else sendFrame cmd data id s

/-- After ENC of SET_DATA_MODE: DEC(2) (R170). -/
def afterSetDataModeFrame (s : State) : State := beginDec 2 s

/-- After ENC of GET_PASSIVE: EXPLEN becomes 26 and DEC(26) starts (R171). -/
def afterGetPassiveFrame (s : State) : State := beginDec 26 s

/-- After ENC of SLEEP_SET: DEC(2) for Sleep, and nothing more to call for Wakeup (R173). -/
def afterSleepSetFrame (mode : BitVec 1) (s : State) : State := if mode = 0 then beginDec 2 s else s

/-- WIRE_CHANGE_MODE (R76, R170): the ENC part of SET_DATA_MODE, which sends `42 4D E1` and the data word. It is no
request (R76): in IDLE no transport call is made (R27). Log 11. -/
def execWireChangeMode (data : Half) (s : State) : Result3 :=
  match s.phase with
  | .idle => .refused .notARequest
  | .busy => sendFrame Config.cmdChangeMode data afterSetDataModeFrame s

/-- WIRE_READ_PASSIVE (R76, R171): the ENC part of GET_PASSIVE, which sends `42 4D E2 00 00`. Log 11. -/
def execWireReadPassive (s : State) : Result3 :=
  match s.phase with
  | .idle => .refused .notARequest
  | .busy => sendFrame Config.cmdReadPassive 0 afterGetPassiveFrame s

/-- WIRE_SLEEP_SET (R76, R173): the ENC part of SLEEP_SET, which sends `42 4D E4` and the data word; the low bit of the
data word is the mode that says whether a response is solicited. Log 11. -/
def execWireSleepSet (data : Half) (s : State) : Result3 :=
  match s.phase with
  | .idle => .refused .notARequest
  | .busy => sendFrame Config.cmdSleepSet data (afterSleepSetFrame (data.extractLsb' 0 1)) s

end Sys2Proof.Machine
end

