-- ==== Sys2Proof/Machine/Operations.lean ====
section
/-! DEFINITION. The public operations SET_DATA_MODE, GET_PASSIVE, GET_ACTIVE and SLEEP_SET
(spec/43_operations.md R170 to R177). In BUSY each goes by STEP, the sub-operation in progress (spec/10_state.md R28); the
first error of a part ends the operation (R175). -/

namespace Sys2Proof.Machine

/-- What acceptance of SET_DATA_MODE leaves (R84, R170): MODE latched, CMD, DATA and EXPLEN loaded, ENC started. -/
def acceptSetDataMode (mode : BitVec 1) (s : State) : State :=
  beginEnc Config.cmdChangeMode (modeData mode) { accept .setDataMode s with mode := mode, explen := 2 }

/-- What acceptance of GET_PASSIVE leaves (R84, R171): CMD and DATA loaded, ENC started. -/
def acceptGetPassive (s : State) : State := beginEnc Config.cmdReadPassive 0 (accept .getPassive s)

/-- What acceptance of SLEEP_SET leaves (R84, R173): MODE latched, CMD and DATA loaded, ENC started. -/
def acceptSleepSet (mode : BitVec 1) (s : State) : State :=
  beginEnc Config.cmdSleepSet (modeData mode) { accept .sleepSet s with mode := mode }

/-- SET_DATA_MODE (R170): ENC(0xE1, MODE), DEC(2), VER(0xE1, MODE), completion with an empty result. -/
def execSetDataMode (mode : BitVec 1) (s : State) : Result3 :=
  match s.phase with
  | .idle => .next (acceptSetDataMode mode s)
  | .busy =>
    match s.step with
    | .enc => sendFrame Config.cmdChangeMode (modeData mode) afterSetDataModeFrame s
    | .dec => decStep Config.responseLength beginVer s
    | .ver => .next (verifyAndComplete Config.cmdChangeMode (modeByte mode) s)
    | .ext => .fault .sequencer

/-- GET_PASSIVE (R171): ENC(0xE2, 0), DEC(26), EXT(PAYLOAD[0..25]), completion with MEAS. -/
def execGetPassive (s : State) : Result3 :=
  match s.phase with
  | .idle => .next (acceptGetPassive s)
  | .busy =>
    match s.step with
    | .enc => sendFrame Config.cmdReadPassive 0 afterGetPassiveFrame s
    | .dec => decStep Config.measurementLength beginExt s
    | .ext => .next (extractAndComplete s.payload (by decide) s)
    | .ver => .fault .sequencer

/-- GET_ACTIVE (R172): DEC(26), EXT(PAYLOAD[0..25]), completion with MEAS. -/
def execGetActive (s : State) : Result3 :=
  match s.phase with
  | .idle => .next (beginDec 26 (accept .getActive s))
  | .busy =>
    match s.step with
    | .dec => decStep Config.measurementLength beginExt s
    | .ext => .next (extractAndComplete s.payload (by decide) s)
    | .enc => .fault .sequencer
    | .ver => .fault .sequencer

/-- SLEEP_SET (R173): ENC(0xE4, MODE); for Sleep then DEC(2) and VER(0xE4, 0); for Wakeup no read at all, and the
completion follows the seventh write. -/
def execSleepSet (mode : BitVec 1) (s : State) : Result3 :=
  match s.phase with
  | .idle => .next (acceptSleepSet mode s)
  | .busy =>
    match s.step with
    | .enc =>
      if mode = 1 ∧ s.idx.toNat = Config.commandFrameLength then .next (complete .empty s)
      else sendFrame Config.cmdSleepSet (modeData mode) (afterSleepSetFrame mode) s
    | .dec => if mode = 0 then decStep Config.responseLength beginVer s else .fault .sequencer
    | .ver => if mode = 0 then .next (verifyAndComplete Config.cmdSleepSet 0 s) else .fault .sequencer
    | .ext => .fault .sequencer

end Sys2Proof.Machine
end

