-- ==== Sys2Proof/Machine/Dispatch.lean ====
section
/-! DEFINITION. One arm per constructor of Instr, each one call of its meaning. -/

namespace Sys2Proof.Machine

def exec (i : Instr) (s : State) : Host.Outcome State Fault Refusal :=
  match i with
  | .encode cmd data => Sys2Proof.Machine.execEncode cmd data s
  | .decode n => Sys2Proof.Machine.execDecode n s
  | .extract payload => Sys2Proof.Machine.execExtract payload s
  | .setDataMode mode => Sys2Proof.Machine.execSetDataMode mode s
  | .getPassive => Sys2Proof.Machine.execGetPassive s
  | .getActive => Sys2Proof.Machine.execGetActive s
  | .sleepSet mode => Sys2Proof.Machine.execSleepSet mode s
  | .wireChangeMode data => Sys2Proof.Machine.execWireChangeMode data s
  | .wireReadPassive => Sys2Proof.Machine.execWireReadPassive s
  | .wireSleepSet data => Sys2Proof.Machine.execWireSleepSet data s

end Sys2Proof.Machine
end

