-- ==== Sys2Proof/Machine/Fetch.lean ====
section
/-! DEFINITION. What the next step runs: the reset input, the request at the head of the request channel in IDLE, the
operation in progress in BUSY. The block has no instruction memory and no fetch from memory (spec/20_memory.md R66). -/

namespace Sys2Proof.Machine

/-- What a step finds to do: run an instruction in a state; go to a state without one; stop. -/
inductive Fetched where
  | run (i : Instr) (s : State)
  | advance (s : State)
  | refuse (r : Refusal)
  | fault (f : Fault)
  deriving Repr

/-- The refusal of a request that spells no operation (R81, R82, R83, R210). -/
def refusalOf : Reject → Refusal
  | .reservedOpcode => .reservedOpcode
  | .reservedBits => .reservedBits
  | .payloadTooLong => .payloadTooLong
  | .notAWireCommand => .notARequest

/-- In IDLE (R84, R27): the oldest request is taken from the channel and decoded. With no request offered nothing
changes (log 9). -/
def fetchRequest (s : State) : Fetched :=
  match s.requests with
  | [] => .advance s
  | r :: rest =>
    match decodeRequest r with
    | .ok i => .run i { s with requests := rest }
    | .error e => .refuse (refusalOf e)

/-- Whether a compound operation is sending its command frame (R170, R171, R173). -/
def sendingWireCommand (op : Operation) (s : State) : Bool :=
  (op = .setDataMode || op = .getPassive || op = .sleepSet) &&
    (s.step = .enc && decide (s.idx.toNat < Config.commandFrameLength))

/-- The operation in progress, its operands read from the registers that latched them (R66, R84). -/
def operationInstr (op : Operation) (s : State) : Instr :=
  match op with
  | .encode => .encode s.cmd s.data
  | .decode => .decode s.explen
  | .extract => .extract s.opbuf
  | .setDataMode => .setDataMode s.mode
  | .getPassive => .getPassive
  | .getActive => .getActive
  | .sleepSet => .sleepSet s.mode

/-- The instruction in progress: while a compound operation sends its command frame, the wire command of that frame
(R76; log 11), else the operation that OP names. -/
def instrInProgress (s : State) : Option Instr :=
  match Operation.ofCode s.op with
  | none => none
  | some op =>
    if sendingWireCommand op s then (decodeFrame (commandFrame s.cmd s.data)).toOption
    else some (operationInstr op s)

/-- In BUSY: no further step while a call has not returned (R209), else the instruction in progress. A request offered
meanwhile is held (R84). -/
def fetchBusy (s : State) : Fetched :=
  if s.pending.isSome then .advance s
  else
    match instrInProgress s with
    | some i => .run i s
    | none => .fault .sequencer

/-- The fetch by PHASE (R27). -/
def fetchByPhase (s : State) : Fetched :=
  match s.phase with
  | .idle => fetchRequest s
  | .busy => fetchBusy s

/-- The fetch: the reset input is sampled first (R231; log 7). -/
def fetch (s : State) : Fetched :=
  match s.resetLine with
  | true :: rest => .advance (takeReset { s with resetLine := rest })
  | false :: rest => fetchByPhase { s with resetLine := rest }
  | [] => fetchByPhase s

/-- A reset input that is not asserted at the next step. -/
def withoutReset (line : List Bool) : List Bool :=
  match line with
  | true :: _ => []
  | rest => rest

/-- Places an instruction so that the very next step runs it (log 15). A request is offered as the oldest one to the
block in IDLE. A wire command is no request: the block is placed where its compound operation (R170, R171, R173) has
been accepted and is about to send the first byte of that frame. Anything else is placed nowhere. -/
def placeCode (c : Code) (s : State) : State :=
  let s' := { s with resetLine := withoutReset s.resetLine }
  match c with
  | .request r => { s' with phase := .idle, requests := r :: s.requests }
  | .frame bytes =>
    match decodeFrame bytes with
    | .ok (.wireChangeMode data) => { acceptSetDataMode (data.extractLsb' 0 1) s' with pending := none }
    | .ok .wireReadPassive => { acceptGetPassive s' with pending := none }
    | .ok (.wireSleepSet data) => { acceptSleepSet (data.extractLsb' 0 1) s' with pending := none }
    | _ => s

end Sys2Proof.Machine
end

