-- ==== Sys2Proof/Machine/Step.lean ====
section
/-! DEFINITION. One step of the machine (spec/00_scope.md R13): what the fetch finds, run. -/

namespace Sys2Proof.Machine

/-- One step: acceptance, one transport call, a completion, a reset, or nothing where there is nothing to do. -/
def step (s : State) : Host.Outcome State Fault Refusal :=
  match fetch s with
  | .run i s' => exec i s'
  | .advance s' => .next s'
  | .refuse r => .refused r
  | .fault f => .fault f

/-- The state with the instruction of an opcode-table number placed where the next step finds it. -/
def State.withFetchWord (s : State) (nbits w : Nat) : State := placeCode (codeOfTable nbits w) s

end Sys2Proof.Machine
end

