-- ==== Sys2Proof/Machine/Assembler.lean ====
section
/-! DEFINITION. The textual spelling of requests (spec/30_encoding.md R88) and the pseudo-instructions with their
expansions (R89). One request a line, mnemonic first; numbers in decimal, or in hexadecimal after `0x`. -/

namespace Sys2Proof

/-- The pseudo-instructions of R89. -/
inductive Pseudo where
  | sendRead
  | sendMode (mode : BitVec 1)
  | sendSleep (mode : BitVec 1)
  | decodeResponse
  | decodeMeasurement
  deriving DecidableEq, Repr

/-- The expansions of R89. -/
def Pseudo.expand : Pseudo → Instr
  | .sendRead => .encode Config.cmdReadPassive 0
  | .sendMode mode => .encode Config.cmdChangeMode (mode.setWidth 16)
  | .sendSleep mode => .encode Config.cmdSleepSet (mode.setWidth 16)
  | .decodeResponse => .decode 2
  | .decodeMeasurement => .decode 26

/-- The words of a line: blanks separate, a comma stands for itself. `word` holds the letters of the word being read,
last letter first. -/
def tokensFrom (word : List Char) : List Char → List (List Char)
  | [] => if word.isEmpty then [] else [word.reverse]
  | c :: cs =>
    if c = ' ' then (if word.isEmpty then [] else [word.reverse]) ++ tokensFrom [] cs
    else if c = ',' then (if word.isEmpty then [] else [word.reverse]) ++ [','] :: tokensFrom [] cs
    else tokensFrom (c :: word) cs

/-- The value of a digit in base 10 or 16. -/
def digitValue (base : Nat) (c : Char) : Option Nat :=
  let v :=
    if '0' ≤ c ∧ c ≤ '9' then some (c.toNat - 48)
    else if 'A' ≤ c ∧ c ≤ 'F' then some (c.toNat - 55)
    else if 'a' ≤ c ∧ c ≤ 'f' then some (c.toNat - 87)
    else none
  v.filter (· < base)

/-- The value of digits after those already read as `acc`. -/
def digitsValue (base acc : Nat) : List Char → Option Nat
  | [] => some acc
  | c :: cs =>
    match digitValue base c with
    | some d => digitsValue base (base * acc + d) cs
    | none => none

/-- A number of R88. -/
def number (word : List Char) : Option Nat :=
  match word with
  | [] => none
  | ['0', 'x'] => none
  | '0' :: 'x' :: digits => digitsValue 16 0 digits
  | digits => digitsValue 10 0 digits

/-- A number that fits `n` bits. -/
def numberBits (n : Nat) (word : List Char) : Option (BitVec n) :=
  match number word with
  | some v => if v < 2 ^ n then some (BitVec.ofNat n v) else none
  | none => none

/-- The mode words of SET_DATA_MODE and SEND_MODE (R88, R24). -/
def dataModeWord (word : List Char) : Option (BitVec 1) :=
  if word = "PASSIVE".toList then some 0 else if word = "ACTIVE".toList then some 1 else none

/-- The mode words of SLEEP_SET and SEND_SLEEP (R88, R24). -/
def sleepModeWord (word : List Char) : Option (BitVec 1) :=
  if word = "SLEEP".toList then some 0 else if word = "WAKEUP".toList then some 1 else none

/-- The 26 bytes of an EXTRACT line, separated by blanks (log 17). -/
def operandOfWords (words : List (List Char)) : Option Operand :=
  match words.mapM (numberBits 8) with
  | some bytes => if h : bytes.length = 26 then some ⟨bytes.toArray, by simpa using h⟩ else none
  | none => none

/-- The instruction that a mnemonic and its operand words spell (R88, R89). -/
def assembleWords (mnemonic : List Char) (words : List (List Char)) : Option Instr :=
  if mnemonic = "ENCODE".toList then
    match words with
    | [c, [','], d] =>
      match numberBits 8 c, numberBits 16 d with
      | some cmd, some data => some (.encode cmd data)
      | _, _ => none
    | _ => none
  else if mnemonic = "DECODE".toList then
    match words with
    | [n] => ((numberBits 8 n).map Instr.decode).filter Instr.wf
    | _ => none
  else if mnemonic = "EXTRACT".toList then (operandOfWords words).map .extract
  else if mnemonic = "SET_DATA_MODE".toList then
    match words with
    | [m] => (dataModeWord m).map .setDataMode
    | _ => none
  else if mnemonic = "GET_PASSIVE".toList then if words.isEmpty then some .getPassive else none
  else if mnemonic = "GET_ACTIVE".toList then if words.isEmpty then some .getActive else none
  else if mnemonic = "SLEEP_SET".toList then
    match words with
    | [m] => (sleepModeWord m).map .sleepSet
    | _ => none
  else if mnemonic = "SEND_READ".toList then if words.isEmpty then some Pseudo.sendRead.expand else none
  else if mnemonic = "SEND_MODE".toList then
    match words with
    | [m] => (dataModeWord m).map fun mode => (Pseudo.sendMode mode).expand
    | _ => none
  else if mnemonic = "SEND_SLEEP".toList then
    match words with
    | [m] => (sleepModeWord m).map fun mode => (Pseudo.sendSleep mode).expand
    | _ => none
  else if mnemonic = "DECODE_RESPONSE".toList then
    if words.isEmpty then some Pseudo.decodeResponse.expand else none
  else if mnemonic = "DECODE_MEASUREMENT".toList then
    if words.isEmpty then some Pseudo.decodeMeasurement.expand else none
  else none

/-- The instruction that a line spells (R88, R89). -/
def assemble (line : String) : Option Instr :=
  match tokensFrom [] line.toList with
  | mnemonic :: words => assembleWords mnemonic words
  | [] => none

end Sys2Proof
end

