-- ==== Sys2Proof/Safety.lean ====
section
/-! DEFINITION. The terms claims use: a safe outcome, the invariant of the sequencer, what the host and the transport can
tell apart, and the states in which an operation may be accepted. -/

namespace Sys2Proof.Machine

/-- A step that does not fault. -/
def Safe (o : Result3) : Prop := ∀ f, o ≠ .fault f

/-- `k` steps of the machine. -/
def runSteps (k : Nat) (s : State) : Result3 := Host.Core.run Sys2Proof.core k s

/-- A reset is asserted at the next step (R231). -/
def ResetDue (s : State) : Prop := ∃ rest, s.resetLine = true :: rest

/-- The command byte and the data word of the frame that a request sends (R100, R170, R171, R173). -/
def sentCommand : Instr → Option (Byte × Half)
  | .encode cmd data => some (cmd, data)
  | .setDataMode mode => some (Config.cmdChangeMode, modeData mode)
  | .getPassive => some (Config.cmdReadPassive, 0)
  | .sleepSet mode => some (Config.cmdSleepSet, modeData mode)
  | .decode _ => none
  | .extract _ => none
  | .getActive => none
  | .wireChangeMode _ => none
  | .wireReadPassive => none
  | .wireSleepSet _ => none

/-- Writes that the transport accepted, as events of the trace. -/
def writesOk (bytes : List Byte) : List Event := bytes.map fun b => .write b .ok

/-- Reads that returned these bytes, as events of the trace. -/
def readsOk (bytes : List Byte) : List Event := bytes.map fun b => .read (.byte b)

/-- Answers of the transport that deliver these bytes. -/
def deliver (bytes : List Byte) : List RxAnswer := bytes.map .byte

/-- The first bytes of a received frame that no check of DEC(n) has refused so far (R122, R124, R126): a start byte and the
length field are checked as soon as all their bytes are there, and the checksum only at the end of the frame. -/
def NotYetRefused (n : Nat) (bytes : List Byte) : Prop :=
  (∀ b, bytes[0]? = some b → b = 0x42) ∧ (∀ b, bytes[1]? = some b → b = 0x4D) ∧
    ∀ h l, bytes[2]? = some h → bytes[3]? = some l → (h ++ l : Half).toNat = n + 2

/-- `t` is `s` with an error response of code `status` given (R203). -/
def failedWith (status : BitVec 3) (s : State) : State :=
  { s with
    status := status, resultValid := false, phase := .idle,
    responses := s.responses ++ [{ status := status, result := .absent }] }

/-- `t` is `s` with the success response of a result given (R204). -/
def succeededWith (result : Result) (valid : Bool) (s : State) : State :=
  { s with
    status := 0, resultValid := valid, phase := .idle,
    responses := s.responses ++ [{ status := 0, result := result }] }

/-- The block is in IDLE, no reset is asserted for the rest of the run, and `r` is the oldest request offered, with
`later` behind it. -/
structure Offered (s : State) (r : Request) (later : List Request) : Prop where
  idle    : s.phase = .idle
  noReset : s.resetLine = []
  free    : s.pending = none
  request : s.requests = r :: later

/-- The first `k` bytes of the command frame that SUM covers (R101): the checksum bytes are not summed. -/
def coveredSum (cmd : Byte) (data : Half) (k : Nat) : Half :=
  sumBytes ((commandFrame cmd data).take (min k 5))

/-- ENC in progress at an index up to `last`, with SUM the sum of the bytes sent (R29, R30, R101). -/
def InEnc (s : State) (cmd : Byte) (data : Half) (last : Nat) : Prop :=
  s.step = .enc ∧ s.idx.toNat ≤ last ∧ s.cmd = cmd ∧ s.data = data ∧
    s.sum = coveredSum cmd data s.idx.toNat

/-- DEC(n) in progress at an index up to `last` (R25, R29, R122): EXPLEN is `n` and admitted; beyond the length field LEN
has passed its check; at the end of the frame PLEN is `n`. -/
def InDec (s : State) (n last : Nat) : Prop :=
  s.step = .dec ∧ s.explen.toNat = n ∧ n ≤ Config.maxPayload ∧ s.idx.toNat ≤ last ∧
    (4 ≤ s.idx.toNat → s.len = BitVec.ofNat 16 (n + 2)) ∧
    (s.idx.toNat = n + Config.frameOverhead → s.plen.toNat = n)

/-- The sub-operation `next` in progress after DEC(n) has accepted a frame (R28, R120): EXPLEN and PLEN are `n`, LEN is
`n + 2` and IDX is `n + 6`. -/
def InAfterDec (s : State) (n : Nat) (next : SubOp) : Prop :=
  s.step = next ∧ s.explen.toNat = n ∧ s.idx.toNat = n + Config.frameOverhead ∧
    s.len = BitVec.ofNat 16 (n + 2) ∧ s.plen.toNat = n

/-- The sub-operations of each operation, in the order its rule fixes (R28, R100, R120, R150, R170 to R173). -/
def subOps (op : Operation) (mode : BitVec 1) : List SubOp :=
  match op with
  | .encode => [.enc]
  | .decode => [.dec]
  | .extract => [.ext]
  | .setDataMode => [.enc, .dec, .ver]
  | .getPassive => [.enc, .dec, .ext]
  | .getActive => [.dec, .ext]
  | .sleepSet => if mode = 0 then [.enc, .dec, .ver] else [.enc]

/-- An outcome, with STEP at `next` where the state is BUSY at an index `last`: where DEC has accepted its last byte, the
next sub-operation has started (R28). -/
def withNextAt (last : Nat) (next : SubOp) : Result3 → Result3
  | .next t => .next (if t.phase = .busy ∧ t.idx.toNat = last then { t with step := next } else t)
  | .fault f => .fault f
  | .refused r => .refused r

/-- Where in its rule an operation can be while BUSY (R28, R29, R100, R120, R150, R170 to R173). -/
def Sequenced (s : State) : Prop :=
  match Operation.ofCode s.op with
  | some .encode => InEnc s s.cmd s.data 7
  | some .decode => InDec s s.explen.toNat (s.explen.toNat + Config.frameOverhead)
  | some .extract => s.step = .ext
  | some .setDataMode =>
    InEnc s Config.cmdChangeMode (modeData s.mode) 6 ∨ InDec s Config.responseLength 7 ∨
      InAfterDec s Config.responseLength .ver
  | some .getPassive =>
    InEnc s Config.cmdReadPassive 0 6 ∨ InDec s Config.measurementLength 31 ∨
      InAfterDec s Config.measurementLength .ext
  | some .getActive => InDec s Config.measurementLength 31 ∨ InAfterDec s Config.measurementLength .ext
  | some .sleepSet =>
    InEnc s Config.cmdSleepSet (modeData s.mode) (if s.mode = 0 then 6 else 7) ∨
      (s.mode = 0 ∧ (InDec s Config.responseLength 7 ∨ InAfterDec s Config.responseLength .ver))
  | none => False

/-- What every state of a run satisfies: STATUS is never 7 (R202); PLEN fits the buffer (R33); RESULT_VALID is 1 only in
IDLE, after a success of an operation that has a result (R36); a call is outstanding only in BUSY (R27); in BUSY the
sequencer stands in the rule of the operation in progress (R28, R29). -/
structure MachineInv (s : State) : Prop where
  status      : s.status ≠ 7
  plen        : s.plen.toNat ≤ Config.maxPayload
  resultValid : s.resultValid = true →
    s.phase = .idle ∧ s.status = 0 ∧
      Operation.ofCode s.op ∈ [some .decode, some .extract, some .getPassive, some .getActive]
  pending     : s.pending ≠ none → s.phase = .busy
  sequenced   : s.phase = .busy → Sequenced s

/-- What an operation may depend on is the same (R40): the requests offered, the transport's answers, the call that has
not returned, the reset input. The block's registers, the calls made and the responses given may differ. -/
structure SameInput (s t : State) : Prop where
  requests  : s.requests = t.requests
  txAnswers : s.txAnswers = t.txAnswers
  rxAnswers : s.rxAnswers = t.rxAnswers
  pending   : s.pending = t.pending
  resetLine : s.resetLine = t.resetLine

/-- What the host can read of the last operation is the same (R35, R36, R38; log 10). -/
structure SameEnd (s t : State) : Prop where
  status      : s.status = t.status
  resultValid : s.resultValid = t.resultValid
  result      : s.visibleResult = t.visibleResult

/-- The run from `s` to `u` and the run from `t` to `v` show the same: the same phase, the same calls made and responses
given, the same left to come. -/
structure SameConduct (s t u v : State) : Prop where
  phase     : u.phase = v.phase
  input     : SameInput u v
  calls     : ∃ calls, u.trace = s.trace ++ calls ∧ v.trace = t.trace ++ calls
  responses : ∃ given, u.responses = s.responses ++ given ∧ v.responses = t.responses ++ given

/-- An operation was in progress at some point of the first `k` steps from `s`. -/
def OperationWithin (k : Nat) (s : State) : Prop :=
  ∃ j w, j ≤ k ∧ runSteps j s = .next w ∧ w.phase = .busy

/-- Two outcomes agree: next states stand in a relation, stops are the same. -/
def Agree (related : State → State → Prop) : Result3 → Result3 → Prop
  | .next u, .next v => related u v
  | .fault f, .fault g => f = g
  | .refused r, .refused q => r = q
  | _, _ => False

end Sys2Proof.Machine
end

