-- ==== Sys2Proof/Certificates/Slice0/Obligations.lean ====
section
/-! DEFINITION. The statements for the provers. Each is about the machine, none about a program. -/

open Sys2Proof Sys2Proof.Machine

/-! ## Encodings -/

/-- Decode and encode agree on every well-formed instruction, requests and wire commands, every operand at every value
(R70, R79, R80). -/
def Obligations.DecodeEncodeRoundTrip : Prop :=
  ∀ i : Instr, i.wf = true → decodeCode (encode i) = .ok i

/-- A request that decodes is the request the encoder writes: no bit of its word is dropped, and EXTRACT keeps its
operand (R79, R85). -/
def Obligations.DecodedRequestKeepsItsWord : Prop :=
  ∀ (r : Request) (i : Instr), decodeRequest r = .ok i →
    i.wf = true ∧ ∃ p, encode i = .request { word := r.word, opbuf := p } ∧ (opField r.word = 3 → p = r.opbuf)

/-- The operation code map: at most one row matches a word, and each row's words spell its operation with the operands
of its format (R80; EXPLEN above 26 is R83's). -/
def Obligations.RequestRowsSelectOperations : Prop :=
  (∀ (w : Word) (row₁ row₂ : RequestRow), row₁ ∈ requestRows → row₂ ∈ requestRows →
    w &&& row₁.mask = row₁.pattern → w &&& row₂.mask = row₂.pattern → row₁ = row₂) ∧
  ∀ r : Request,
    (r.word &&& 0xFF000000 = 0x10000000 →
      decodeRequest r = .ok (.encode (r.word.extractLsb' 16 8) (r.word.extractLsb' 0 16))) ∧
    (r.word &&& 0xFFFFFF00 = 0x20000000 → (r.word.extractLsb' 0 8).toNat ≤ 26 →
      decodeRequest r = .ok (.decode (r.word.extractLsb' 0 8))) ∧
    (r.word &&& 0xFFFFFFFF = 0x30000000 → decodeRequest r = .ok (.extract r.opbuf)) ∧
    (r.word &&& 0xFFFFFFFE = 0x40000000 → decodeRequest r = .ok (.setDataMode (r.word.extractLsb' 0 1))) ∧
    (r.word &&& 0xFFFFFFFF = 0x50000000 → decodeRequest r = .ok .getPassive) ∧
    (r.word &&& 0xFFFFFFFF = 0x60000000 → decodeRequest r = .ok .getActive) ∧
    (r.word &&& 0xFFFFFFFE = 0x70000000 → decodeRequest r = .ok (.sleepSet (r.word.extractLsb' 0 1)))

/-- A request word that spells no operation is refused: a reserved OP (R81), a reserved bit set (R82), an EXPLEN above
MAX_PAYLOAD (R83); the DECODE words 0x20000000 to 0x2000001A are admitted (R83). -/
def Obligations.UnspelledRequestsAreRefused : Prop :=
  ∀ (s : State) (r : Request) (later : List Request), Offered s r later →
    ((r.word.extractLsb' 28 4 = 0 ∨ 8 ≤ (r.word.extractLsb' 28 4).toNat) → step s = .refused .reservedOpcode) ∧
    ((r.word.extractLsb' 28 4 = 1 ∧ r.word.extractLsb' 24 4 ≠ 0) ∨
      (r.word.extractLsb' 28 4 = 2 ∧ r.word.extractLsb' 8 20 ≠ 0) ∨
      ((r.word.extractLsb' 28 4 = 4 ∨ r.word.extractLsb' 28 4 = 7) ∧ r.word.extractLsb' 1 27 ≠ 0) ∨
      ((r.word.extractLsb' 28 4 = 3 ∨ r.word.extractLsb' 28 4 = 5 ∨ r.word.extractLsb' 28 4 = 6) ∧
        r.word.extractLsb' 0 28 ≠ 0) → step s = .refused .reservedBits) ∧
    (∀ n : Byte, r.word = 0x20000000 + n.setWidth 32 →
      (26 < n.toNat → step s = .refused .payloadTooLong) ∧
      (n.toNat ≤ 26 → step s = exec (.decode n) { s with requests := later }))

/-- The words of R90, an ENCODE word, the last DECODE word that R83 admits and the first that it does not, and the frames
of change mode, read passive and sleep (R76) decode to what they stand for. The 56-bit numbering of a frame, and that
EXTRACT's operand is the bits after its word, are the model's choice (log 16). -/
def Obligations.SpecWordsDecode : Prop :=
  decodeTableWord 32 0x40000000 = some (.setDataMode 0) ∧
  decodeTableWord 32 0x40000001 = some (.setDataMode 1) ∧
  decodeTableWord 32 0x50000000 = some .getPassive ∧
  decodeTableWord 32 0x60000000 = some .getActive ∧
  decodeTableWord 32 0x70000000 = some (.sleepSet 0) ∧
  decodeTableWord 32 0x70000001 = some (.sleepSet 1) ∧
  decodeTableWord 32 0x30000000 = some (.extract (Vector.replicate 26 0)) ∧
  decodeTableWord 32 0x10E10001 = some (.encode 0xE1 0x0001) ∧
  decodeTableWord 32 0x2000001A = some (.decode 26) ∧
  decodeTableWord 32 0x2000001B = none ∧
  decodeTableWord 56 0x424DE100010171 = some (.wireChangeMode 1) ∧
  decodeTableWord 56 0x424DE200000171 = some .wireReadPassive ∧
  decodeTableWord 56 0x424DE400000173 = some (.wireSleepSet 0)

/-- The pseudo-instructions expand to the request words of R89. -/
def Obligations.PseudoInstructionWords : Prop :=
  encode Pseudo.sendRead.expand = .request { word := 0x10E20000 } ∧
  encode (Pseudo.sendMode 0).expand = .request { word := 0x10E10000 } ∧
  encode (Pseudo.sendMode 1).expand = .request { word := 0x10E10001 } ∧
  encode (Pseudo.sendSleep 0).expand = .request { word := 0x10E40000 } ∧
  encode (Pseudo.sendSleep 1).expand = .request { word := 0x10E40001 } ∧
  encode Pseudo.decodeResponse.expand = .request { word := 0x20000002 } ∧
  encode Pseudo.decodeMeasurement.expand = .request { word := 0x2000001A }

/-! ## What a step runs -/

/-- In IDLE a step takes the oldest request from the channel and runs the instruction its word decodes to (R84, R27).
That the oldest request is the one taken is the model's choice (log 8), and so is that the reset input moves on by one
sample a step (log 7). -/
def Obligations.StepRunsTheOldestRequest : Prop :=
  ∀ (s : State) (r : Request) (later : List Request) (i : Instr),
    s.phase = .idle → ¬ ResetDue s → s.requests = r :: later → decodeRequest r = .ok i →
    step s = exec i { s with requests := later, resetLine := s.resetLine.tail }

/-- In BUSY, with no call outstanding, a step runs the operation that OP names, its operands read from the registers
that latched them (R21 to R26, R66, R80, R84). While SET_DATA_MODE, GET_PASSIVE and SLEEP_SET send their command frame,
StepRunsTheWireCommandInProgress says what a step runs. That the reset input moves on by one sample a step is the model's
choice (log 7). -/
def Obligations.StepRunsTheOperationInProgress : Prop :=
  ∀ s u : State,
    s.phase = .busy → s.pending = none → ¬ ResetDue s → u = { s with resetLine := s.resetLine.tail } →
    (s.op = 1 → step s = exec (.encode s.cmd s.data) u) ∧
    (s.op = 2 → step s = exec (.decode s.explen) u) ∧
    (s.op = 3 → step s = exec (.extract s.opbuf) u) ∧
    (s.op = 6 → step s = exec .getActive u) ∧
    (s.step ≠ .enc ∨ 7 ≤ s.idx.toNat →
      (s.op = 4 → step s = exec (.setDataMode s.mode) u) ∧
      (s.op = 5 → step s = exec .getPassive u) ∧
      (s.op = 7 → step s = exec (.sleepSet s.mode) u))

/-- While a compound operation sends its command frame, a step runs the wire command of that frame. That the wire rows of
the opcode table are run there is the model's choice (log 11), and so is that the reset input moves on by one sample a
step (log 7). -/
def Obligations.StepRunsTheWireCommandInProgress : Prop :=
  ∀ s : State,
    s.phase = .busy → s.pending = none → ¬ ResetDue s → s.step = .enc → s.idx.toNat < 7 →
    (s.op = 4 → s.cmd = 0xE1 → (s.data = 0 ∨ s.data = 1) →
      step s = exec (.wireChangeMode s.data) { s with resetLine := s.resetLine.tail }) ∧
    (s.op = 5 → s.cmd = 0xE2 → s.data = 0 →
      step s = exec .wireReadPassive { s with resetLine := s.resetLine.tail }) ∧
    (s.op = 7 → s.cmd = 0xE4 → (s.data = 0 ∨ s.data = 1) →
      step s = exec (.wireSleepSet s.data) { s with resetLine := s.resetLine.tail })

/-- A request offered while BUSY is held: a step in BUSY neither reads the request channel nor takes from it (R84,
R245). With a reset due it also says that held requests survive the reset and have no influence on it, which is the
model's choice (log 7). -/
def Obligations.RequestsAreHeldWhileBusy : Prop :=
  ∀ (s : State) (queue : List Request), s.phase = .busy →
    step { s with requests := queue } =
      match step s with
      | .next t => .next { t with requests := queue }
      | .fault f => .fault f
      | .refused r => .refused r

/-- In IDLE the core makes no transport call (R27). -/
def Obligations.IdleMakesNoTransportCall : Prop :=
  ∀ s t : State, s.phase = .idle → ¬ ResetDue s → step s = .next t →
    t.trace = s.trace ∧ t.txAnswers = s.txAnswers ∧ t.rxAnswers = s.rxAnswers ∧ t.pending = s.pending

/-- Each step makes at most one transport call, and a call uses one answer of one stream (R13, R53, R62). -/
def Obligations.AtMostOneTransportCallPerStep : Prop :=
  ∀ s t : State, ¬ ResetDue s → step s = .next t →
    (t.trace = s.trace ∨ ∃ e, t.trace = s.trace ++ [e]) ∧
    ((t.txAnswers = s.txAnswers ∧ (t.rxAnswers = s.rxAnswers ∨ t.rxAnswers = s.rxAnswers.tail)) ∨
      (t.rxAnswers = s.rxAnswers ∧ t.txAnswers = s.txAnswers.tail))

/-! ## ENCODE and the wire commands -/

/-- Acceptance of ENCODE latches OP, CMD and DATA, clears RESULT_VALID and goes to BUSY (R84), with ENC started (R100).
That ENC's start is in the acceptance step is the model's choice (log 2). -/
def Obligations.EncodeAcceptance : Prop :=
  ∀ (s : State) (c : Byte) (d : Half), s.phase = .idle →
    exec (.encode c d) s =
      .next { s with
        op := 1, cmd := c, data := d, resultValid := false, phase := .busy, step := .enc, sum := 0, idx := 0 }

/-- The step table of ENC, row by row: at index `k` the byte of the command frame is written; on `ok` SUM and IDX
advance, on `fail` WriteFailure is raised; nothing else changes (R101, R103). -/
def Obligations.EncoderStepTable : Prop :=
  ∀ (s : State) (c : Byte) (d : Half) (k : Nat) (b : Byte) (rest : List TxAnswer),
    s.phase = .busy → s.step = .enc → s.idx.toNat = k →
    [0x42, 0x4D, c, d.extractLsb' 8 8, d.extractLsb' 0 8,
      (chkCmd c d).extractLsb' 8 8, (chkCmd c d).extractLsb' 0 8][k]? = some b →
    s.sum = coveredSum c d k →
    (s.txAnswers = .ok :: rest →
      exec (.encode c d) s =
        .next { s with
          txAnswers := rest, trace := s.trace ++ [.write b .ok], sum := coveredSum c d (k + 1), idx := s.idx + 1 }) ∧
    (s.txAnswers = .fail :: rest →
      exec (.encode c d) s =
        .next (failedWith 1 { s with txAnswers := rest, trace := s.trace ++ [.write b .fail] }))

/-- The same table for the three wire commands, whose last accepted byte starts DEC of the compound operation, except
for Wakeup, where no response is read (R76, R170, R171, R173; log 11, log 2). -/
def Obligations.WireCommandStepTable : Prop :=
  ∀ (s : State) (i : Instr) (c : Byte) (d : Half) (k : Nat) (b : Byte) (rest : List TxAnswer),
    (i = .wireChangeMode d ∧ c = 0xE1) ∨ (i = .wireReadPassive ∧ c = 0xE2 ∧ d = 0) ∨
      (i = .wireSleepSet d ∧ c = 0xE4) →
    s.phase = .busy → s.step = .enc → s.idx.toNat = k → (commandFrame c d)[k]? = some b →
    s.sum = coveredSum c d k →
    (∀ u : State, s.txAnswers = .ok :: rest →
      u = { s with
        txAnswers := rest, trace := s.trace ++ [.write b .ok], sum := coveredSum c d (k + 1), idx := s.idx + 1 } →
      (k < 6 → exec i s = .next u) ∧
      (k = 6 → c = 0xE1 → exec i s = .next { u with explen := 2, step := .dec, sum := 0, idx := 0 }) ∧
      (k = 6 → c = 0xE2 → exec i s = .next { u with explen := 26, step := .dec, sum := 0, idx := 0 }) ∧
      (k = 6 → c = 0xE4 → d = 0 → exec i s = .next { u with explen := 2, step := .dec, sum := 0, idx := 0 }) ∧
      (k = 6 → c = 0xE4 → d = 1 → exec i s = .next u)) ∧
    (s.txAnswers = .fail :: rest →
      exec i s = .next (failedWith 1 { s with txAnswers := rest, trace := s.trace ++ [.write b .fail] }))

/-- A wire command is no request: in IDLE it is refused (R76, R27, R210; log 11). -/
def Obligations.WireCommandIsNoRequest : Prop :=
  ∀ (s : State) (d : Half), s.phase = .idle →
    exec (.wireChangeMode d) s = .refused .notARequest ∧ exec .wireReadPassive s = .refused .notARequest ∧
      exec (.wireSleepSet d) s = .refused .notARequest

/-- While a compound operation is in ENC, its step is that of its wire command. That this part is the meaning of a
wire_command row is the model's choice (log 11). -/
def Obligations.CompoundEncPartIsItsWireCommand : Prop :=
  ∀ (s : State) (m : BitVec 1), s.phase = .busy → s.step = .enc → s.idx.toNat < 7 →
    exec (.setDataMode m) s = exec (.wireChangeMode (m.setWidth 16)) s ∧
    exec .getPassive s = exec .wireReadPassive s ∧
    exec (.sleepSet m) s = exec (.wireSleepSet (m.setWidth 16)) s

/-- After the seventh accepted byte ENCODE completes with STATUS None and an empty result (R100, R204). That the
completion is a step of its own is the model's choice (log 2). -/
def Obligations.EncodeCompletes : Prop :=
  ∀ (s : State) (c : Byte) (d : Half), s.phase = .busy → s.step = .enc → s.idx = 7 →
    exec (.encode c d) s =
      .next { s with
        status := 0, resultValid := false, phase := .idle,
        responses := s.responses ++ [{ status := 0, result := .empty }] }

/-- The checksum of a command frame: bytes 5 and 6 are the sum of bytes 0 to 4, which the truncation never touches, and
lies between 0x008F and 0x038C (R102, R107). -/
def Obligations.CommandFrameChecksum : Prop :=
  ∀ (c : Byte) (d : Half), ∃ hi lo : Byte,
    commandFrame c d = [0x42, 0x4D, c, d.extractLsb' 8 8, d.extractLsb' 0 8, hi, lo] ∧
    (hi ++ lo : Half).toNat =
      (0x42 + 0x4D + c.toNat + (d.extractLsb' 8 8).toNat + (d.extractLsb' 0 8).toNat) % 65536 ∧
    0x008F ≤ (hi ++ lo : Half).toNat ∧ (hi ++ lo : Half).toNat ≤ 0x038C ∧ hi.toNat ≤ 3

/-- ENCODE with every write accepted: acceptance, seven writes, completion; the trace is the command frame, no read is
made, one response is given (R100, R105, R176). The number of steps is the model's choice (log 2). -/
def Obligations.EncodeRunsToCompletion : Prop :=
  ∀ (s : State) (r : Request) (later : List Request) (c : Byte) (d : Half) (rest : List TxAnswer),
    Offered s r later → decodeRequest r = .ok (.encode c d) → s.txAnswers = List.replicate 7 .ok ++ rest →
    ∃ t, runSteps 9 s = .next t ∧ t.phase = .idle ∧ t.status = 0 ∧ t.resultValid = false ∧ t.requests = later ∧
      t.responses = s.responses ++ [{ status := 0, result := .empty }] ∧
      t.trace = s.trace ++ writesOk (commandFrame c d) ∧ t.txAnswers = rest ∧ t.rxAnswers = s.rxAnswers ∧
      t.pending = none ∧ t.idx = 7 ∧ t.sum = chkCmd c d

/-- A write that fails at index `k` ends ENCODE, SET_DATA_MODE, GET_PASSIVE and SLEEP_SET at once with WriteFailure: the
trace is the `k + 1` calls of indices 0 to `k`, and no read is made (R103, R105, R175). The number of steps is the
model's choice (log 2). -/
def Obligations.FailedWriteEndsTheOperation : Prop :=
  ∀ (s : State) (r : Request) (later : List Request) (i : Instr) (c : Byte) (d : Half) (k : Nat) (b : Byte)
    (rest : List TxAnswer),
    Offered s r later → decodeRequest r = .ok i → sentCommand i = some (c, d) → (commandFrame c d)[k]? = some b →
    s.txAnswers = List.replicate k .ok ++ .fail :: rest →
    ∃ t, runSteps (k + 2) s = .next t ∧ t.phase = .idle ∧ t.status = 1 ∧ t.resultValid = false ∧
      t.requests = later ∧ t.responses = s.responses ++ [{ status := 1, result := .absent }] ∧
      t.trace = s.trace ++ writesOk ((commandFrame c d).take k) ++ [.write b .fail] ∧
      t.txAnswers = rest ∧ t.rxAnswers = s.rxAnswers

/-- A write that never returns leaves the operation incomplete for ever: BUSY, no response, no error, the trace ends
with that call pending (R105, R209). That a stuck block makes steps that change nothing is the model's choice (log 4),
and so is the number of steps before it is stuck (log 2). -/
def Obligations.UnansweredWriteBlocksTheOperation : Prop :=
  ∀ (s : State) (r : Request) (later : List Request) (i : Instr) (c : Byte) (d : Half) (k : Nat) (b : Byte)
    (rest : List TxAnswer) (more : Nat),
    Offered s r later → decodeRequest r = .ok i → sentCommand i = some (c, d) → (commandFrame c d)[k]? = some b →
    s.txAnswers = List.replicate k .ok ++ .never :: rest →
    ∃ t, runSteps (k + 2 + more) s = .next t ∧ t.phase = .busy ∧ t.status = s.status ∧
      t.responses = s.responses ∧ t.pending = some (.write b) ∧
      t.observedTrace = s.trace ++ writesOk ((commandFrame c d).take k) ++ [.write b .never]

/-- What the TX wire holds after a failed write (R61): whatever went before it, then the bytes accepted, then the failed
byte or not. The free value that decides is log 5's. -/
def Obligations.WireAfterFailedWrite : Prop :=
  ∀ (s : State) (before : List Event) (sent : List Byte) (b : Byte),
    s.trace = before ++ writesOk sent ++ [.write b .fail] → s.pending = none →
    s.wire = wireFrom 0 before ++ sent ∨ s.wire = wireFrom 0 before ++ sent ++ [b]

/-! ## DECODE -/

/-- Acceptance of DECODE latches OP and EXPLEN (R84), with DEC started (R120; log 2); a length above MAX_PAYLOAD is
refused (R83). -/
def Obligations.DecodeAcceptance : Prop :=
  ∀ (s : State) (n : Byte), s.phase = .idle →
    (n.toNat ≤ 26 →
      exec (.decode n) s =
        .next { s with
          op := 2, explen := n, resultValid := false, phase := .busy, step := .dec, sum := 0, idx := 0 }) ∧
    (26 < n.toNat → exec (.decode n) s = .refused .payloadTooLong)

/-- The step table of DEC, row by row: field, sum, register, check, and ReadFailure on a failed read (R121). -/
def Obligations.DecoderStepTable : Prop :=
  ∀ (s : State) (n b : Byte) (rest : List RxAnswer) (u v : State),
    s.phase = .busy → s.step = .dec → n.toNat ≤ 26 →
    u = { s with rxAnswers := rest, trace := s.trace ++ [.read (.byte b)], idx := s.idx + 1 } →
    v = { u with sum := s.sum + b.setWidth 16 } →
    (s.rxAnswers = .byte b :: rest →
      (s.idx.toNat = 0 → exec (.decode n) s = .next (if b = 0x42 then v else failedWith 3 v)) ∧
      (s.idx.toNat = 1 → exec (.decode n) s = .next (if b = 0x4D then v else failedWith 3 v)) ∧
      (s.idx.toNat = 2 → exec (.decode n) s = .next { v with len := b ++ s.len.extractLsb' 0 8 }) ∧
      (s.idx.toNat = 3 → ∀ w : State, w = { v with len := s.len.extractLsb' 8 8 ++ b } →
        exec (.decode n) s = .next (if w.len.toNat = n.toNat + 2 then w else failedWith 4 w)) ∧
      (∀ (i : Nat) (h : i < 26), i < n.toNat → s.idx.toNat = 4 + i →
        exec (.decode n) s = .next { v with payload := s.payload.set i b h }) ∧
      (s.idx.toNat = 4 + n.toNat →
        exec (.decode n) s = .next { u with rxchk := b ++ s.rxchk.extractLsb' 0 8 }) ∧
      (s.idx.toNat = 5 + n.toNat → ∀ w : State, w = { u with rxchk := s.rxchk.extractLsb' 8 8 ++ b } →
        exec (.decode n) s = .next (if w.rxchk = s.sum then { w with plen := n } else failedWith 5 w))) ∧
    (s.rxAnswers = .fail :: rest → s.idx.toNat < n.toNat + 6 →
      exec (.decode n) s =
        .next (failedWith 2 { s with rxAnswers := rest, trace := s.trace ++ [.read .fail] }))

/-- While a compound operation is in DEC, its step is that of DECODE with the length its rule names; where that step
accepts the last byte of the frame, STEP becomes VER or EXT (R28, R170 to R174, R150). That VER and EXT start in the step
of the last read is the model's choice (log 2). -/
def Obligations.CompoundDecPartIsDecode : Prop :=
  ∀ (s : State) (m : BitVec 1), s.phase = .busy → s.step = .dec →
    (s.idx.toNat < 8 →
      exec (.setDataMode m) s = withNextAt 8 .ver (exec (.decode 2) s) ∧
      exec (.sleepSet 0) s = withNextAt 8 .ver (exec (.decode 2) s)) ∧
    (s.idx.toNat < 32 →
      exec .getPassive s = withNextAt 32 .ext (exec (.decode 26) s) ∧
      exec .getActive s = withNextAt 32 .ext (exec (.decode 26) s))

/-- After the last checksum byte DECODE completes with PAYLOAD[0..PLEN-1] (R120, R127, R204). That the completion is a
step of its own is the model's choice (log 2). -/
def Obligations.DecodeCompletes : Prop :=
  ∀ (s : State) (n : Byte), s.phase = .busy → s.step = .dec → n.toNat ≤ 26 → s.idx.toNat = n.toNat + 6 →
    exec (.decode n) s =
      .next { s with
        status := 0, resultValid := true, phase := .idle,
        responses := s.responses ++ [{ status := 0, result := .payload (s.payload.toList.take s.plen.toNat) }] }

/-- DECODE of a valid frame: acceptance, `n + 6` reads, completion; the result is the payload, whatever its length from
0 to 26 and whatever its bytes (R120, R125, R127). The number of steps is the model's choice (log 2). -/
def Obligations.DecodeReturnsThePayload : Prop :=
  ∀ (s : State) (r : Request) (later : List Request) (n : Byte) (p : List Byte) (rest : List RxAnswer),
    Offered s r later → decodeRequest r = .ok (.decode n) → p.length = n.toNat →
    s.rxAnswers = deliver (receivedFrame p) ++ rest →
    ∃ t, runSteps (n.toNat + 8) s = .next t ∧ t.phase = .idle ∧ t.status = 0 ∧ t.resultValid = true ∧
      t.requests = later ∧ t.responses = s.responses ++ [{ status := 0, result := .payload p }] ∧
      t.visibleResult = .payload p ∧ t.plen = n ∧ t.trace = s.trace ++ readsOk (receivedFrame p) ∧
      t.rxAnswers = rest ∧ t.txAnswers = s.txAnswers

/-- A wrong trailing checksum gives BadChecksum after exactly `n + 6` reads (R123, R125). The number of steps is the
model's choice (log 2). -/
def Obligations.WrongChecksumIsReported : Prop :=
  ∀ (s : State) (r : Request) (later : List Request) (n : Byte) (p : List Byte) (h l : Byte) (rest : List RxAnswer),
    Offered s r later → decodeRequest r = .ok (.decode n) → p.length = n.toNat →
    (h ++ l : Half) ≠ sumBytes (frameHead p) → s.rxAnswers = deliver (frameHead p ++ [h, l]) ++ rest →
    ∃ t, runSteps (n.toNat + 7) s = .next t ∧ t.phase = .idle ∧ t.status = 5 ∧ t.resultValid = false ∧
      t.responses = s.responses ++ [{ status := 5, result := .absent }] ∧ t.visibleResult = .absent ∧
      t.trace = s.trace ++ readsOk (frameHead p ++ [h, l]) ∧ t.rxAnswers = rest

/-- A length field other than `n + 2` gives UnexpectedFrameLength after exactly 4 reads; the rest of the frame stays in
the stream (R122, R125, R132). The number of steps is the model's choice (log 2). -/
def Obligations.WrongLengthIsReported : Prop :=
  ∀ (s : State) (r : Request) (later : List Request) (n h l : Byte) (rest : List RxAnswer),
    Offered s r later → decodeRequest r = .ok (.decode n) → (h ++ l : Half).toNat ≠ n.toNat + 2 →
    s.rxAnswers = deliver [0x42, 0x4D, h, l] ++ rest →
    ∃ t, runSteps 5 s = .next t ∧ t.phase = .idle ∧ t.status = 4 ∧ t.resultValid = false ∧
      t.responses = s.responses ++ [{ status := 4, result := .absent }] ∧
      t.trace = s.trace ++ readsOk [0x42, 0x4D, h, l] ∧ t.rxAnswers = rest

/-- A wrong start byte gives InvalidStartChar after 1 read or after 2 reads; the block does not hunt for 0x42 (R124,
R125). The number of steps is the model's choice (log 2). -/
def Obligations.WrongStartByteIsReported : Prop :=
  ∀ (s : State) (r : Request) (later : List Request) (n b : Byte) (rest : List RxAnswer),
    Offered s r later → decodeRequest r = .ok (.decode n) →
    (b ≠ 0x42 → s.rxAnswers = .byte b :: rest →
      ∃ t, runSteps 2 s = .next t ∧ t.phase = .idle ∧ t.status = 3 ∧ t.resultValid = false ∧
        t.responses = s.responses ++ [{ status := 3, result := .absent }] ∧
        t.trace = s.trace ++ readsOk [b] ∧ t.rxAnswers = rest) ∧
    (b ≠ 0x4D → s.rxAnswers = .byte 0x42 :: .byte b :: rest →
      ∃ t, runSteps 3 s = .next t ∧ t.phase = .idle ∧ t.status = 3 ∧ t.resultValid = false ∧
        t.responses = s.responses ++ [{ status := 3, result := .absent }] ∧
        t.trace = s.trace ++ readsOk [0x42, b] ∧ t.rxAnswers = rest)

/-- A read that fails at index `k` gives ReadFailure after `k + 1` calls, `k` bytes consumed, with no further read, whatever
the `k` bytes are that no check has refused: a failure at index 3 after a wrong `len_hi`, and one at index `5 + n` after a
tampered payload or a wrong `chk_hi`, are among them (R125, R126). The number of steps is the model's choice (log 2). -/
def Obligations.FailedReadEndsTheOperation : Prop :=
  ∀ (s : State) (r : Request) (later : List Request) (n : Byte) (bytes : List Byte) (rest : List RxAnswer),
    Offered s r later → decodeRequest r = .ok (.decode n) → bytes.length < n.toNat + 6 → NotYetRefused n.toNat bytes →
    s.rxAnswers = deliver bytes ++ .fail :: rest →
    ∃ t, runSteps (bytes.length + 2) s = .next t ∧ t.phase = .idle ∧ t.status = 2 ∧ t.resultValid = false ∧
      t.responses = s.responses ++ [{ status := 2, result := .absent }] ∧ t.visibleResult = .absent ∧
      t.trace = s.trace ++ readsOk bytes ++ [.read .fail] ∧ t.rxAnswers = rest ∧ t.txAnswers = s.txAnswers

/-- Flipping one bit of one payload byte, the checksum kept, gives BadChecksum (R130). The number of steps is the
model's choice (log 2). -/
def Obligations.PayloadBitFlipIsDetected : Prop :=
  ∀ (s : State) (r : Request) (later : List Request) (n : Byte) (p q : List Byte) (j k : Nat) (b : Byte)
    (rest : List RxAnswer),
    Offered s r later → decodeRequest r = .ok (.decode n) → p.length = n.toNat → p[j]? = some b → k < 8 →
    q = p.set j (b ^^^ BitVec.twoPow 8 k) →
    s.rxAnswers = deliver (frameHead q ++ bytesOf (sumBytes (frameHead p))) ++ rest →
    ∃ t, runSteps (n.toNat + 7) s = .next t ∧ t.phase = .idle ∧ t.status = 5 ∧ t.visibleResult = .absent

/-- A change that keeps the sum is not detected: the changed payload is returned with STATUS None (R130). The number of
steps is the model's choice (log 2). -/
def Obligations.SumKeepingChangeIsNotDetected : Prop :=
  ∀ (s : State) (r : Request) (later : List Request) (n : Byte) (p q : List Byte) (rest : List RxAnswer),
    Offered s r later → decodeRequest r = .ok (.decode n) → p.length = n.toNat → q.length = n.toNat →
    sumBytes q = sumBytes p →
    s.rxAnswers = deliver (frameHead q ++ bytesOf (sumBytes (frameHead p))) ++ rest →
    ∃ t, runSteps (n.toNat + 8) s = .next t ∧ t.phase = .idle ∧ t.status = 0 ∧ t.resultValid = true ∧
      t.responses = s.responses ++ [{ status := 0, result := .payload q }] ∧ t.visibleResult = .payload q

/-- The frame of the two byte arrays: a step writes at most the PAYLOAD byte at IDX - 4, and only in DEC; OPBUF is
written only by accepting an EXTRACT (R33, R41, R84). -/
def Obligations.StepWritesOnlyTheIndexedPayloadByte : Prop :=
  ∀ s t : State, ¬ ResetDue s → step s = .next t →
    (∀ j : Nat, ¬ (s.phase = .busy ∧ s.step = .dec ∧ s.idx.toNat = j + 4) → t.payload[j]? = s.payload[j]?) ∧
    (t.opbuf = s.opbuf ∨
      ∃ r later, s.phase = .idle ∧ s.requests = r :: later ∧ decodeRequest r = .ok (.extract t.opbuf))

/-! ## EXTRACT -/

/-- Acceptance of EXTRACT latches OP and the 26-byte operand (R84, R26), with EXT started (R28, R150). That EXT's start is
in the acceptance step is the model's choice (log 2). -/
def Obligations.ExtractAcceptance : Prop :=
  ∀ (s : State) (a : Operand), s.phase = .idle →
    exec (.extract a) s = .next { s with op := 3, opbuf := a, resultValid := false, phase := .busy, step := .ext }

/-- EXT unpacks twelve big-endian fields from bytes 0 to 23 and EXTRACT completes with them; it makes no transport call
and cannot fail (R150, R152, R153). That EXT and the completion are one step of their own after the acceptance is the
model's choice (log 2). -/
def Obligations.ExtractCompletes : Prop :=
  ∀ (s : State) (a : Operand), s.phase = .busy → s.step = .ext →
    ∃ m : Vector Half 12,
      exec (.extract a) s =
        .next { s with
          meas := m, status := 0, resultValid := true, phase := .idle,
          responses := s.responses ++ [{ status := 0, result := .measurement m }] } ∧
      ∀ (i : Nat) (h : i < 12), m[i] = a[2 * i]'(by omega) ++ a[2 * i + 1]'(by omega)

/-- The reserved bytes 24 and 25 have no effect (R151): neither in the operand of EXTRACT nor in PAYLOAD, where
GET_PASSIVE and GET_ACTIVE end. -/
def Obligations.ReservedBytesHaveNoEffect : Prop :=
  (∀ (s : State) (a b : Operand), s.phase = .busy → (∀ i : Fin 24, a[i.val] = b[i.val]) →
    exec (.extract a) s = exec (.extract b) s) ∧
  ∀ (s t : State) (i : Instr) (x y : Byte), (i = .getPassive ∨ i = .getActive) →
    s.phase = .busy → s.step = .ext → exec i s = .next t →
    exec i { s with payload := (s.payload.set 24 x).set 25 y } =
      .next { t with payload := (s.payload.set 24 x).set 25 y }

/-- EXTRACT runs in two steps without a transport call, whatever the transport is (R150, R176). The number of steps is
the model's choice (log 2). -/
def Obligations.ExtractRunsToCompletion : Prop :=
  ∀ (s : State) (r : Request) (later : List Request) (a : Operand),
    Offered s r later → decodeRequest r = .ok (.extract a) →
    ∃ t, runSteps 2 s = .next t ∧ t.phase = .idle ∧ t.status = 0 ∧ t.resultValid = true ∧ t.requests = later ∧
      t.meas = measurementFields a (by decide) ∧ t.visibleResult = .measurement t.meas ∧
      t.responses = s.responses ++ [{ status := 0, result := .measurement t.meas }] ∧
      t.trace = s.trace ∧ t.txAnswers = s.txAnswers ∧ t.rxAnswers = s.rxAnswers

/-! ## The compound operations -/

/-- Acceptance of the four compound operations: what each latches and loads before its first call (R84, R170 to R173;
log 2). -/
def Obligations.CompoundAcceptance : Prop :=
  ∀ (s u : State) (m : BitVec 1), s.phase = .idle →
    u = { s with resultValid := false, phase := .busy, sum := 0, idx := 0 } →
    exec (.setDataMode m) s =
      .next { u with op := 4, mode := m, cmd := 0xE1, data := m.setWidth 16, explen := 2, step := .enc } ∧
    exec .getPassive s = .next { u with op := 5, cmd := 0xE2, data := 0, step := .enc } ∧
    exec .getActive s = .next { u with op := 6, explen := 26, step := .dec } ∧
    exec (.sleepSet m) s = .next { u with op := 7, mode := m, cmd := 0xE4, data := m.setWidth 16, step := .enc }

/-- VER compares the echoed command byte and data byte with what was sent: SET_DATA_MODE and SLEEP_SET for Sleep
complete on a match and raise UnexpectedResponse on any other pair, without a transport call (R174). That VER and the
completion are one step of their own after the last read is the model's choice (log 2). -/
def Obligations.EchoIsVerified : Prop :=
  ∀ (s : State) (i : Instr) (c m : Byte),
    (i = .setDataMode 0 ∧ c = 0xE1 ∧ m = 0) ∨ (i = .setDataMode 1 ∧ c = 0xE1 ∧ m = 1) ∨
      (i = .sleepSet 0 ∧ c = 0xE4 ∧ m = 0) →
    s.phase = .busy → s.step = .ver →
    (s.payload[0] = c → s.payload[1] = m → exec i s = .next (succeededWith .empty false s)) ∧
    (s.payload[0] ≠ c ∨ s.payload[1] ≠ m → exec i s = .next (failedWith 6 s))

/-- GET_PASSIVE and GET_ACTIVE complete, after DEC(26), with the twelve fields of PAYLOAD (R150, R171, R172). That EXT
and the completion are one step of their own after the last read is the model's choice (log 2). -/
def Obligations.GetCompletesWithMeasurement : Prop :=
  ∀ (s : State) (i : Instr), (i = .getPassive ∨ i = .getActive) → s.phase = .busy → s.step = .ext →
    ∃ m : Vector Half 12,
      exec i s = .next (succeededWith (.measurement m) true { s with meas := m }) ∧
      ∀ (j : Nat) (h : j < 12),
        m[j] = s.payload[2 * j]'(by simp only [Config.maxPayload]; omega) ++
          s.payload[2 * j + 1]'(by simp only [Config.maxPayload]; omega)

/-- SLEEP_SET for Wakeup completes after the seventh write, with no read (R173). That the completion is a step of its
own after the seventh write is the model's choice (log 2). -/
def Obligations.WakeupCompletesAfterItsWrites : Prop :=
  ∀ s : State, s.phase = .busy → s.step = .enc → s.idx = 7 →
    exec (.sleepSet 1) s = .next (succeededWith .empty false s)

/-- SET_DATA_MODE with every write accepted and a well-formed response frame: 7 writes, then 8 reads; it succeeds
exactly when the echo is 0xE1 and the requested mode, else UnexpectedResponse is reported (R170, R174, R176). The number
of steps is the model's choice (log 2). -/
def Obligations.SetDataModeRun : Prop :=
  ∀ (s : State) (r : Request) (later : List Request) (m : BitVec 1) (c e : Byte) (txRest : List TxAnswer)
    (rxRest : List RxAnswer),
    Offered s r later → decodeRequest r = .ok (.setDataMode m) → s.txAnswers = List.replicate 7 .ok ++ txRest →
    s.rxAnswers = deliver (receivedFrame [c, e]) ++ rxRest →
    ∃ t, runSteps 17 s = .next t ∧ t.phase = .idle ∧ t.resultValid = false ∧ t.requests = later ∧
      t.txAnswers = txRest ∧ t.rxAnswers = rxRest ∧
      t.trace = s.trace ++ writesOk (commandFrame 0xE1 (m.setWidth 16)) ++ readsOk (receivedFrame [c, e]) ∧
      (c = 0xE1 ∧ e = m.setWidth 8 →
        t.status = 0 ∧ t.responses = s.responses ++ [{ status := 0, result := .empty }]) ∧
      (c ≠ 0xE1 ∨ e ≠ m.setWidth 8 →
        t.status = 6 ∧ t.responses = s.responses ++ [{ status := 6, result := .absent }])

/-- GET_PASSIVE with every write accepted and a valid measurement frame: 7 writes, then 32 reads, then MEAS (R171,
R176). The number of steps is the model's choice (log 2). -/
def Obligations.GetPassiveRun : Prop :=
  ∀ (s : State) (r : Request) (later : List Request) (p : Operand) (txRest : List TxAnswer) (rxRest : List RxAnswer),
    Offered s r later → decodeRequest r = .ok .getPassive → s.txAnswers = List.replicate 7 .ok ++ txRest →
    s.rxAnswers = deliver (receivedFrame p.toList) ++ rxRest →
    ∃ t, runSteps 41 s = .next t ∧ t.phase = .idle ∧ t.status = 0 ∧ t.resultValid = true ∧ t.requests = later ∧
      t.txAnswers = txRest ∧ t.rxAnswers = rxRest ∧ t.meas = measurementFields p (by decide) ∧
      t.responses = s.responses ++ [{ status := 0, result := .measurement (measurementFields p (by decide)) }] ∧
      t.trace = s.trace ++ writesOk (commandFrame 0xE2 0) ++ readsOk (receivedFrame p.toList)

/-- GET_ACTIVE with a valid measurement frame: 32 reads, no write, then MEAS (R172, R176). The number of steps is the
model's choice (log 2). -/
def Obligations.GetActiveRun : Prop :=
  ∀ (s : State) (r : Request) (later : List Request) (p : Operand) (rxRest : List RxAnswer),
    Offered s r later → decodeRequest r = .ok .getActive → s.rxAnswers = deliver (receivedFrame p.toList) ++ rxRest →
    ∃ t, runSteps 34 s = .next t ∧ t.phase = .idle ∧ t.status = 0 ∧ t.resultValid = true ∧ t.requests = later ∧
      t.txAnswers = s.txAnswers ∧ t.rxAnswers = rxRest ∧ t.meas = measurementFields p (by decide) ∧
      t.responses = s.responses ++ [{ status := 0, result := .measurement (measurementFields p (by decide)) }] ∧
      t.trace = s.trace ++ readsOk (receivedFrame p.toList)

/-- SLEEP_SET: for Sleep 7 writes, 8 reads and the check of the echo; for Wakeup 7 writes and no read, whatever the
transport would answer to one (R173, R176). The number of steps is the model's choice (log 2). -/
def Obligations.SleepSetRun : Prop :=
  ∀ (s : State) (r : Request) (later : List Request) (m : BitVec 1) (txRest : List TxAnswer),
    Offered s r later → decodeRequest r = .ok (.sleepSet m) → s.txAnswers = List.replicate 7 .ok ++ txRest →
    (∀ (c e : Byte) (rxRest : List RxAnswer), m = 0 → s.rxAnswers = deliver (receivedFrame [c, e]) ++ rxRest →
      ∃ t, runSteps 17 s = .next t ∧ t.phase = .idle ∧ t.resultValid = false ∧ t.requests = later ∧
        t.txAnswers = txRest ∧ t.rxAnswers = rxRest ∧
        t.trace = s.trace ++ writesOk (commandFrame 0xE4 0) ++ readsOk (receivedFrame [c, e]) ∧
        (c = 0xE4 ∧ e = 0 →
          t.status = 0 ∧ t.responses = s.responses ++ [{ status := 0, result := .empty }]) ∧
        (c ≠ 0xE4 ∨ e ≠ 0 →
          t.status = 6 ∧ t.responses = s.responses ++ [{ status := 6, result := .absent }])) ∧
    (m = 1 →
      ∃ t, runSteps 9 s = .next t ∧ t.phase = .idle ∧ t.status = 0 ∧ t.resultValid = false ∧ t.requests = later ∧
        t.txAnswers = txRest ∧ t.rxAnswers = s.rxAnswers ∧
        t.trace = s.trace ++ writesOk (commandFrame 0xE4 1) ∧
        t.responses = s.responses ++ [{ status := 0, result := .empty }])

/-- Once its seven writes are accepted, GET_PASSIVE equals SEND_READ followed by GET_ACTIVE on the wire, with one response
instead of two (R89). The first clause is for any answers to the reads and any number of steps: both block alike, end
with the same error or the same measurement, and go on alike. The second is a successful exchange in full. The numbers of
steps are the model's choice (log 2), and what the host can read is log 10's. -/
def Obligations.GetPassiveEqualsSendReadThenGetActive : Prop :=
  ∀ (s s₁ s₂ : State) (later : List Request) (txRest : List TxAnswer),
    s.phase = .idle → s.resetLine = [] → s.pending = none → s.txAnswers = List.replicate 7 .ok ++ txRest →
    s₁ = { s with requests := { word := 0x50000000 } :: later } →
    s₂ = { s with requests := { word := 0x10E20000 } :: { word := 0x60000000 } :: later } →
    (∀ k : Nat,
      Agree
        (fun t u =>
          t.phase = u.phase ∧ SameInput t u ∧ t.trace = u.trace ∧
            (∃ given, t.responses = s.responses ++ given ∧
              u.responses = s.responses ++ { status := 0, result := .empty } :: given) ∧
            (t.phase = .idle → SameEnd t u))
        (runSteps (8 + k) s₁) (runSteps (10 + k) s₂)) ∧
    ∀ (p : Operand) (rxRest : List RxAnswer), s.rxAnswers = deliver (receivedFrame p.toList) ++ rxRest →
      ∃ t u m,
        runSteps 41 s₁ = .next t ∧ runSteps 43 s₂ = .next u ∧
        t.trace = u.trace ∧ t.txAnswers = u.txAnswers ∧ t.rxAnswers = u.rxAnswers ∧ t.requests = u.requests ∧
        t.responses = s.responses ++ [{ status := 0, result := .measurement m }] ∧
        u.responses = s.responses ++ [{ status := 0, result := .empty }, { status := 0, result := .measurement m }]

/-! ## Ending, status, reset -/

/-- Exactly one response is given when an operation ends, and none at any other step; it holds STATUS and the result the
host can then read (R38, R203, R204). -/
def Obligations.OneResponseWhenAnOperationEnds : Prop :=
  ∀ s t : State, ¬ ResetDue s → step s = .next t →
    ((s.phase = .busy ∧ t.phase = .idle) ∧
      t.responses = s.responses ++ [{ status := t.status, result := t.visibleResult }]) ∨
    (¬ (s.phase = .busy ∧ t.phase = .idle) ∧ t.responses = s.responses ∧ t.status = s.status)

/-- STATUS 7 is never produced, neither in the register nor in a response (R202). -/
def Obligations.EmptyDataIsNeverProduced : Prop :=
  ∀ s t : State, s.status ≠ 7 → (∀ r ∈ s.responses, r.status ≠ 7) → step s = .next t →
    t.status ≠ 7 ∧ ∀ r ∈ t.responses, r.status ≠ 7

/-- A call that never returns is left outstanding and changes nothing else (R34, R209): every write of ENCODE and of the
three wire commands, which are the ENC part of the compound operations (log 11), and every read of DECODE, whose steps
CompoundDecPartIsDecode gives to the DEC part of the compound operations. That a list of answers which has ended stands for
calls that never return is the model's choice (log 4). -/
def Obligations.UnansweredCallIsLeftOutstanding : Prop :=
  ∀ s : State, s.phase = .busy →
    (∀ (i : Instr) (c b : Byte) (d : Half) (rest : List TxAnswer),
      i = .encode c d ∨ (i = .wireChangeMode d ∧ c = 0xE1) ∨ (i = .wireReadPassive ∧ c = 0xE2 ∧ d = 0) ∨
        (i = .wireSleepSet d ∧ c = 0xE4) →
      s.step = .enc → (commandFrame c d)[s.idx.toNat]? = some b → s.sum = coveredSum c d s.idx.toNat →
      (s.txAnswers = .never :: rest ∨ (s.txAnswers = [] ∧ rest = [])) →
      exec i s = .next { s with txAnswers := rest, pending := some (.write b) }) ∧
    ∀ (n : Byte) (rest : List RxAnswer), s.step = .dec → s.idx.toNat < n.toNat + 6 →
      (s.rxAnswers = .never :: rest ∨ (s.rxAnswers = [] ∧ rest = [])) →
      exec (.decode n) s = .next { s with rxAnswers := rest, pending := some .read }

/-- A call that has not returned leaves the core with no further step: nothing changes, however long (R209, R34). The
rule calls the block stuck; that it then makes steps which leave the state as it is, is the model's choice (log 4). -/
def Obligations.OutstandingCallBlocksForEver : Prop :=
  ∀ (s : State) (k : Nat), s.phase = .busy → s.pending ≠ none → s.resetLine = [] → runSteps k s = .next s

/-- After reset PHASE is IDLE, STATUS is 0 and RESULT_VALID is 0 (R230). -/
def Obligations.ResetValues : Prop :=
  State.reset.phase = .idle ∧ State.reset.status = 0 ∧ State.reset.resultValid = false

/-- A reset in any state, BUSY or not: the operation is abandoned with no response; the transport stays as it was, but for
the answer that an outstanding read may have taken, which is the free value of log 6; an outstanding write stays attempted
in the trace (R230, R231, R232). That the reset is a sampled input, and that the requests the host holds survive it, on
which the spec is silent, are the model's choice (log 7). -/
def Obligations.ResetAbandonsTheOperation : Prop :=
  ∀ (s : State) (rest : List Bool), s.resetLine = true :: rest →
    ∃ t, step s = .next t ∧ t.phase = .idle ∧ t.status = 0 ∧ t.resultValid = false ∧ t.pending = none ∧
      t.responses = s.responses ∧ t.requests = s.requests ∧ t.resetLine = rest ∧ t.txAnswers = s.txAnswers ∧
      (t.rxAnswers = s.rxAnswers ∨ (s.pending = some .read ∧ t.rxAnswers = s.rxAnswers.tail)) ∧
      (s.pending = none → t.trace = s.trace) ∧
      (∀ b, s.pending = some (.write b) → t.trace = s.trace ++ [.write b .never]) ∧
      (s.pending = some .read → t.trace = s.trace ++ [.read .never])

/-! ## Invariants and independence -/

/-- The invariant holds after reset. Its clause on PLEN holds there by the zero that the model names, for the spec gives
PLEN no value at reset (DESIGN CHOICE, log 1); the other clauses hold by R230. That no call is outstanding is log 4's. -/
def Obligations.InvariantAtReset : Prop := MachineInv State.reset

/-- The invariant of the sequencer, of STATUS and of RESULT_VALID is kept by every step, from every state that has it
(R29, R36, R101, R202). For a step under reset the clause on PLEN holds by the zero that the model names, for the spec
gives PLEN no value there (DESIGN CHOICE, log 1). -/
def Obligations.EveryStepKeepsTheInvariant : Prop :=
  ∀ s t : State, MachineInv s → step s = .next t → MachineInv t

/-- From a state with the invariant no step faults: the model's own faults guard states that no run reaches (R39). -/
def Obligations.InvariantStatesDoNotFault : Prop :=
  ∀ s : State, MachineInv s → Safe (step s)

/-- The block keeps no state between operations that affects the next one (R40, R211, R233). Take two IDLE states with the
same input ahead, whatever their registers hold, the last error in STATUS among them, and whatever calls and responses
lie behind them. After any number of steps they have made the same calls and given the same responses since, and have the
same to come; and once an operation has been accepted and is over, or where the host could read the same at the start,
it can read the same. What the host can read is the model's (log 10). The premise on the trace concerns runs with a reset:
there the free value of log 6 belongs to a position of the trace. -/
def Obligations.NoStateBetweenOperations : Prop :=
  ∀ (s t : State) (k : Nat),
    s.phase = .idle → t.phase = .idle → SameInput s t → (s.trace.length = t.trace.length ∨ true ∉ s.resetLine) →
    Agree
      (fun u v =>
        SameConduct s t u v ∧ (SameEnd s t ∨ (u.phase = .idle ∧ OperationWithin k s) → SameEnd u v))
      (runSteps k s) (runSteps k t)

/-- STEP names the sub-operation in progress while BUSY, and each operation runs its sub-operations in the order its rule
fixes: acceptance starts the first, each step stays in one or goes on to the next, and an operation succeeds only in the
last (R28, R100, R120, R150, R170 to R173). In which step one sub-operation gives way to the next is the model's choice
(log 2). -/
def Obligations.SubOperationsFollowInOrder : Prop :=
  ∀ (s t : State) (op : Operation), MachineInv s → ¬ ResetDue s → step s = .next t → t.op = op.code →
    (s.phase = .idle → t.phase = .busy → (subOps op t.mode).head? = some t.step) ∧
    (s.phase = .busy →
      s.op = op.code ∧ s.mode = t.mode ∧ s.step ∈ subOps op s.mode ∧
        (t.step = s.step ∨ [s.step, t.step] <:+: subOps op s.mode) ∧
        (t.phase = .idle → t.status = 0 → (subOps op s.mode).getLast? = some s.step))
end

