-- ==== Sys2Proof/Laws/Decode.lean ====
section
/-! SUPPORT. The decoder as arithmetic on the number a request word is: which row selects it, what its fields are, and
what the encoder's words are. -/

namespace Sys2Proof

/-- Concatenation is place value (spec/00_scope.md R11: `a ++ b` has `a` in the high bits). -/
theorem toNat_append_eq {n m : Nat} (x : BitVec n) (y : BitVec m) :
    (x ++ y).toNat = x.toNat * 2 ^ m + y.toNat := by
  rw [BitVec.toNat_append, ← Nat.shiftLeft_add_eq_or_of_lt y.isLt, Nat.shiftLeft_eq]

/-- A mask of ones from bit `k` up compares the number above bit `k`. -/
theorem highMask_eq_iff (w m p : Word) (k : Nat) (hm : ∀ i, i < 32 → m.getLsbD i = decide (k ≤ i))
    (hp : ∀ i, i < k → p.getLsbD i = false) :
    w &&& m = p ↔ w.toNat / 2 ^ k = p.toNat / 2 ^ k := by
  rw [← Nat.shiftRight_eq_div_pow, ← Nat.shiftRight_eq_div_pow, ← BitVec.toNat_ushiftRight,
    ← BitVec.toNat_ushiftRight, BitVec.toNat_inj]
  constructor
  · intro h
    rw [← h]
    apply BitVec.eq_of_getLsbD_eq
    intro i _
    simp only [BitVec.getLsbD_ushiftRight, BitVec.getLsbD_and]
    by_cases hi : k + i < 32
    · simp [hm _ hi]
    · simp [BitVec.getLsbD_of_ge w (k + i) (by omega)]
  · intro h
    apply BitVec.eq_of_getLsbD_eq
    intro i hi
    by_cases hki : k ≤ i
    · have hbit := congrArg (fun v => v.getLsbD (i - k)) h
      simp only [BitVec.getLsbD_ushiftRight, show k + (i - k) = i by omega] at hbit
      simp [hm i hi, hki, hbit]
    · simp [hm i hi, hki, hp i (by omega)]

/-! Which row selects a word. -/

theorem masked_encode_iff (w : Word) : w &&& 0xFF000000 = 0x10000000 ↔ w.toNat / 2 ^ 24 = 0x10 :=
  highMask_eq_iff w _ _ 24 (by decide) (by decide)

theorem masked_decode_iff (w : Word) : w &&& 0xFFFFFF00 = 0x20000000 ↔ w.toNat / 2 ^ 8 = 0x200000 :=
  highMask_eq_iff w _ _ 8 (by decide) (by decide)

theorem masked_word_iff (w p : Word) : w &&& 0xFFFFFFFF = p ↔ w.toNat = p.toNat := by
  simpa using highMask_eq_iff w 0xFFFFFFFF p 0 (by decide) (by omega)

theorem masked_setDataMode_iff (w : Word) : w &&& 0xFFFFFFFE = 0x40000000 ↔ w.toNat / 2 = 0x20000000 := by
  simpa using highMask_eq_iff w 0xFFFFFFFE 0x40000000 1 (by decide) (by decide)

theorem masked_sleepSet_iff (w : Word) : w &&& 0xFFFFFFFE = 0x70000000 ↔ w.toNat / 2 = 0x38000000 := by
  simpa using highMask_eq_iff w 0xFFFFFFFE 0x70000000 1 (by decide) (by decide)

/-- What the decoder of requests answers, by the number its word is (R80 to R83). -/
theorem decodeRequest_eq (r : Request) :
    decodeRequest r =
      if r.word.toNat / 2 ^ 24 = 0x10 then .ok (.encode (cmdField r.word) (dataField r.word))
      else if r.word.toNat / 2 ^ 8 = 0x200000 then
        if (explenField r.word).toNat ≤ Config.maxPayload then .ok (.decode (explenField r.word))
        else .error .payloadTooLong
      else if r.word.toNat = 0x30000000 then .ok (.extract r.opbuf)
      else if r.word.toNat / 2 = 0x20000000 then .ok (.setDataMode (modeField r.word))
      else if r.word.toNat = 0x50000000 then .ok .getPassive
      else if r.word.toNat = 0x60000000 then .ok .getActive
      else if r.word.toNat / 2 = 0x38000000 then .ok (.sleepSet (modeField r.word))
      else if (Operation.ofCode (opField r.word)).isSome then .error .reservedBits
      else .error .reservedOpcode := by
  unfold decodeRequest requestRows
  simp only [List.find?_cons, List.find?_nil, RequestRow.selects, ← masked_encode_iff, ← masked_decode_iff,
    ← masked_setDataMode_iff, ← masked_sleepSet_iff, beq_eq_decide]
  have h3 : r.word.toNat = 0x30000000 ↔ r.word &&& 0xFFFFFFFF = 0x30000000 :=
    (masked_word_iff r.word 0x30000000).symm
  have h5 : r.word.toNat = 0x50000000 ↔ r.word &&& 0xFFFFFFFF = 0x50000000 :=
    (masked_word_iff r.word 0x50000000).symm
  have h6 : r.word.toNat = 0x60000000 ↔ r.word &&& 0xFFFFFFFF = 0x60000000 :=
    (masked_word_iff r.word 0x60000000).symm
  simp only [h3, h5, h6]
  split_ifs <;> simp_all [Operation.instrOf, Instr.wf]
  all_goals split <;> simp_all

/-! The fields of a word as numbers. -/

theorem toNat_opField (w : Word) : (opField w).toNat = w.toNat / 2 ^ 28 % 2 ^ 4 := by
  simp [opField, BitVec.extractLsb'_toNat, Nat.shiftRight_eq_div_pow]

theorem toNat_cmdField (w : Word) : (cmdField w).toNat = w.toNat / 2 ^ 16 % 2 ^ 8 := by
  simp [cmdField, BitVec.extractLsb'_toNat, Nat.shiftRight_eq_div_pow]

theorem toNat_dataField (w : Word) : (dataField w).toNat = w.toNat % 2 ^ 16 := by
  simp [dataField, BitVec.extractLsb'_toNat]

theorem toNat_explenField (w : Word) : (explenField w).toNat = w.toNat % 2 ^ 8 := by
  simp [explenField, BitVec.extractLsb'_toNat]

theorem toNat_modeField (w : Word) : (modeField w).toNat = w.toNat % 2 := by
  simp [modeField, BitVec.extractLsb'_toNat]

/-! The encoder's words as numbers. -/

theorem toNat_formatC (op : BitVec 4) (cmd : Byte) (data : Half) :
    (formatC op cmd data).toNat = op.toNat * 2 ^ 28 + cmd.toNat * 2 ^ 16 + data.toNat := by
  simp only [formatC, toNat_append_eq, BitVec.ofNat_eq_ofNat, BitVec.toNat_ofNat, Nat.zero_mod]
  omega

theorem toNat_formatL (op : BitVec 4) (explen : Byte) :
    (formatL op explen).toNat = op.toNat * 2 ^ 28 + explen.toNat := by
  simp only [formatL, toNat_append_eq, BitVec.ofNat_eq_ofNat, BitVec.toNat_ofNat, Nat.zero_mod]
  omega

theorem toNat_formatM (op : BitVec 4) (mode : BitVec 1) :
    (formatM op mode).toNat = op.toNat * 2 ^ 28 + mode.toNat := by
  simp only [formatM, toNat_append_eq, BitVec.ofNat_eq_ofNat, BitVec.toNat_ofNat, Nat.zero_mod]
  omega

theorem toNat_formatN (op : BitVec 4) : (formatN op).toNat = op.toNat * 2 ^ 28 := by
  simp only [formatN, toNat_append_eq, BitVec.ofNat_eq_ofNat, BitVec.toNat_ofNat, Nat.zero_mod]
  omega

/-! Byte order. -/

theorem toNat_hiByte (v : Half) : (hiByte v).toNat = v.toNat / 2 ^ 8 := by
  simp only [hiByte, BitVec.extractLsb'_toNat, Nat.shiftRight_eq_div_pow]
  omega

theorem toNat_loByte (v : Half) : (loByte v).toNat = v.toNat % 2 ^ 8 := by
  simp [loByte, BitVec.extractLsb'_toNat]

theorem toNat_be16 (h l : Byte) : (be16 h l).toNat = h.toNat * 2 ^ 8 + l.toNat := toNat_append_eq h l

@[simp] theorem be16_hiByte_loByte (v : Half) : be16 (hiByte v) (loByte v) = v := by
  apply BitVec.eq_of_toNat_eq
  rw [toNat_be16, toNat_hiByte, toNat_loByte]
  omega

@[simp] theorem hiByte_be16 (h l : Byte) : hiByte (be16 h l) = h := by
  apply BitVec.eq_of_toNat_eq
  rw [toNat_hiByte, toNat_be16]
  omega

@[simp] theorem loByte_be16 (h l : Byte) : loByte (be16 h l) = l := by
  apply BitVec.eq_of_toNat_eq
  rw [toNat_loByte, toNat_be16]
  omega

/-! Command frames. -/

/-- Which wire command a command frame is, by its command byte and data word (R76). -/
theorem decodeFrame_commandFrame (cmd : Byte) (data : Half) :
    decodeFrame (commandFrame cmd data) =
      if cmd = Config.cmdChangeMode ∧ admittedData data then .ok (.wireChangeMode data)
      else if cmd = Config.cmdReadPassive ∧ data = 0 then .ok .wireReadPassive
      else if cmd = Config.cmdSleepSet ∧ admittedData data then .ok (.wireSleepSet data)
      else .error .notAWireCommand := by
  have header : ∀ p : BitVec 24,
      (((Config.startByte1 ++ Config.startByte2 ++ cmd : BitVec 24) &&& 0xFFFFFF) == p) =
        decide ((Config.startByte1 ++ Config.startByte2 ++ cmd : BitVec 24) = p) := by
    intro p
    rw [show (0xFFFFFF : BitVec 24) = BitVec.allOnes 24 from rfl, BitVec.and_allOnes, beq_eq_decide]
  have cmdOf : ∀ c : Byte, (Config.startByte1 ++ Config.startByte2 ++ cmd : BitVec 24) =
      (Config.startByte1 ++ Config.startByte2 ++ c : BitVec 24) ↔ cmd = c := by
    intro c
    constructor
    · intro h
      have := congrArg BitVec.toNat h
      simp only [toNat_append_eq] at this
      exact BitVec.eq_of_toNat_eq (by omega)
    · rintro rfl
      rfl
  simp only [decodeFrame, commandFrame, wireRows, List.find?_cons, List.find?_nil, header, be16_hiByte_loByte]
  rw [show (0x424DE1 : BitVec 24) = Config.startByte1 ++ Config.startByte2 ++ Config.cmdChangeMode from rfl,
    show (0x424DE2 : BitVec 24) = Config.startByte1 ++ Config.startByte2 ++ Config.cmdReadPassive from rfl,
    show (0x424DE4 : BitVec 24) = Config.startByte1 ++ Config.startByte2 ++ Config.cmdSleepSet from rfl]
  simp only [cmdOf]
  by_cases h1 : cmd = Config.cmdChangeMode
  · subst h1
    simp
  by_cases h2 : cmd = Config.cmdReadPassive
  · subst h2
    simp
  by_cases h4 : cmd = Config.cmdSleepSet
  · subst h4
    simp
  have n1 : ¬ cmd = 0xE1#8 := h1
  have n2 : ¬ cmd = 0xE2#8 := h2
  have n4 : ¬ cmd = 0xE4#8 := h4
  simp [n1, n2, n4]

end Sys2Proof
end

