-- ==== Sys2Proof/Laws/State.lean ====
section
/-! SUPPORT. One lemma per field of State for each named update, true by unfolding the update, so that no later proof
unfolds a record update. -/

namespace Sys2Proof.Machine

/-! `raise` -/

@[simp] theorem raise_phase (kind : ErrorKind) (s : State) : (raise kind s).phase = .idle := rfl
@[simp] theorem raise_step (kind : ErrorKind) (s : State) : (raise kind s).step = s.step := rfl
@[simp] theorem raise_op (kind : ErrorKind) (s : State) : (raise kind s).op = s.op := rfl
@[simp] theorem raise_cmd (kind : ErrorKind) (s : State) : (raise kind s).cmd = s.cmd := rfl
@[simp] theorem raise_data (kind : ErrorKind) (s : State) : (raise kind s).data = s.data := rfl
@[simp] theorem raise_mode (kind : ErrorKind) (s : State) : (raise kind s).mode = s.mode := rfl
@[simp] theorem raise_explen (kind : ErrorKind) (s : State) : (raise kind s).explen = s.explen := rfl
@[simp] theorem raise_opbuf (kind : ErrorKind) (s : State) : (raise kind s).opbuf = s.opbuf := rfl
@[simp] theorem raise_idx (kind : ErrorKind) (s : State) : (raise kind s).idx = s.idx := rfl
@[simp] theorem raise_sum (kind : ErrorKind) (s : State) : (raise kind s).sum = s.sum := rfl
@[simp] theorem raise_len (kind : ErrorKind) (s : State) : (raise kind s).len = s.len := rfl
@[simp] theorem raise_rxchk (kind : ErrorKind) (s : State) : (raise kind s).rxchk = s.rxchk := rfl
@[simp] theorem raise_payload (kind : ErrorKind) (s : State) : (raise kind s).payload = s.payload := rfl
@[simp] theorem raise_plen (kind : ErrorKind) (s : State) : (raise kind s).plen = s.plen := rfl
@[simp] theorem raise_status (kind : ErrorKind) (s : State) : (raise kind s).status = kind.code := rfl
@[simp] theorem raise_resultValid (kind : ErrorKind) (s : State) : (raise kind s).resultValid = false := rfl
@[simp] theorem raise_meas (kind : ErrorKind) (s : State) : (raise kind s).meas = s.meas := rfl
@[simp] theorem raise_requests (kind : ErrorKind) (s : State) : (raise kind s).requests = s.requests := rfl
@[simp] theorem raise_responses (kind : ErrorKind) (s : State) : (raise kind s).responses = s.responses ++ [{ status := kind.code, result := .absent }] := rfl
@[simp] theorem raise_txAnswers (kind : ErrorKind) (s : State) : (raise kind s).txAnswers = s.txAnswers := rfl
@[simp] theorem raise_rxAnswers (kind : ErrorKind) (s : State) : (raise kind s).rxAnswers = s.rxAnswers := rfl
@[simp] theorem raise_trace (kind : ErrorKind) (s : State) : (raise kind s).trace = s.trace := rfl
@[simp] theorem raise_pending (kind : ErrorKind) (s : State) : (raise kind s).pending = s.pending := rfl
@[simp] theorem raise_resetLine (kind : ErrorKind) (s : State) : (raise kind s).resetLine = s.resetLine := rfl

/-! `complete` -/

@[simp] theorem complete_phase (result : Result) (s : State) : (complete result s).phase = .idle := rfl
@[simp] theorem complete_step (result : Result) (s : State) : (complete result s).step = s.step := rfl
@[simp] theorem complete_op (result : Result) (s : State) : (complete result s).op = s.op := rfl
@[simp] theorem complete_cmd (result : Result) (s : State) : (complete result s).cmd = s.cmd := rfl
@[simp] theorem complete_data (result : Result) (s : State) : (complete result s).data = s.data := rfl
@[simp] theorem complete_mode (result : Result) (s : State) : (complete result s).mode = s.mode := rfl
@[simp] theorem complete_explen (result : Result) (s : State) : (complete result s).explen = s.explen := rfl
@[simp] theorem complete_opbuf (result : Result) (s : State) : (complete result s).opbuf = s.opbuf := rfl
@[simp] theorem complete_idx (result : Result) (s : State) : (complete result s).idx = s.idx := rfl
@[simp] theorem complete_sum (result : Result) (s : State) : (complete result s).sum = s.sum := rfl
@[simp] theorem complete_len (result : Result) (s : State) : (complete result s).len = s.len := rfl
@[simp] theorem complete_rxchk (result : Result) (s : State) : (complete result s).rxchk = s.rxchk := rfl
@[simp] theorem complete_payload (result : Result) (s : State) : (complete result s).payload = s.payload := rfl
@[simp] theorem complete_plen (result : Result) (s : State) : (complete result s).plen = s.plen := rfl
@[simp] theorem complete_status (result : Result) (s : State) : (complete result s).status = 0 := rfl
@[simp] theorem complete_resultValid (result : Result) (s : State) : (complete result s).resultValid = result.valid := rfl
@[simp] theorem complete_meas (result : Result) (s : State) : (complete result s).meas = s.meas := rfl
@[simp] theorem complete_requests (result : Result) (s : State) : (complete result s).requests = s.requests := rfl
@[simp] theorem complete_responses (result : Result) (s : State) : (complete result s).responses = s.responses ++ [{ status := 0, result := result }] := rfl
@[simp] theorem complete_txAnswers (result : Result) (s : State) : (complete result s).txAnswers = s.txAnswers := rfl
@[simp] theorem complete_rxAnswers (result : Result) (s : State) : (complete result s).rxAnswers = s.rxAnswers := rfl
@[simp] theorem complete_trace (result : Result) (s : State) : (complete result s).trace = s.trace := rfl
@[simp] theorem complete_pending (result : Result) (s : State) : (complete result s).pending = s.pending := rfl
@[simp] theorem complete_resetLine (result : Result) (s : State) : (complete result s).resetLine = s.resetLine := rfl

/-! `accept` -/

@[simp] theorem accept_phase (op : Operation) (s : State) : (accept op s).phase = .busy := rfl
@[simp] theorem accept_step (op : Operation) (s : State) : (accept op s).step = s.step := rfl
@[simp] theorem accept_op (op : Operation) (s : State) : (accept op s).op = op.code := rfl
@[simp] theorem accept_cmd (op : Operation) (s : State) : (accept op s).cmd = s.cmd := rfl
@[simp] theorem accept_data (op : Operation) (s : State) : (accept op s).data = s.data := rfl
@[simp] theorem accept_mode (op : Operation) (s : State) : (accept op s).mode = s.mode := rfl
@[simp] theorem accept_explen (op : Operation) (s : State) : (accept op s).explen = s.explen := rfl
@[simp] theorem accept_opbuf (op : Operation) (s : State) : (accept op s).opbuf = s.opbuf := rfl
@[simp] theorem accept_idx (op : Operation) (s : State) : (accept op s).idx = s.idx := rfl
@[simp] theorem accept_sum (op : Operation) (s : State) : (accept op s).sum = s.sum := rfl
@[simp] theorem accept_len (op : Operation) (s : State) : (accept op s).len = s.len := rfl
@[simp] theorem accept_rxchk (op : Operation) (s : State) : (accept op s).rxchk = s.rxchk := rfl
@[simp] theorem accept_payload (op : Operation) (s : State) : (accept op s).payload = s.payload := rfl
@[simp] theorem accept_plen (op : Operation) (s : State) : (accept op s).plen = s.plen := rfl
@[simp] theorem accept_status (op : Operation) (s : State) : (accept op s).status = s.status := rfl
@[simp] theorem accept_resultValid (op : Operation) (s : State) : (accept op s).resultValid = false := rfl
@[simp] theorem accept_meas (op : Operation) (s : State) : (accept op s).meas = s.meas := rfl
@[simp] theorem accept_requests (op : Operation) (s : State) : (accept op s).requests = s.requests := rfl
@[simp] theorem accept_responses (op : Operation) (s : State) : (accept op s).responses = s.responses := rfl
@[simp] theorem accept_txAnswers (op : Operation) (s : State) : (accept op s).txAnswers = s.txAnswers := rfl
@[simp] theorem accept_rxAnswers (op : Operation) (s : State) : (accept op s).rxAnswers = s.rxAnswers := rfl
@[simp] theorem accept_trace (op : Operation) (s : State) : (accept op s).trace = s.trace := rfl
@[simp] theorem accept_pending (op : Operation) (s : State) : (accept op s).pending = s.pending := rfl
@[simp] theorem accept_resetLine (op : Operation) (s : State) : (accept op s).resetLine = s.resetLine := rfl

/-! `beginEnc` -/

@[simp] theorem beginEnc_phase (cmd : Byte) (data : Half) (s : State) : (beginEnc cmd data s).phase = s.phase := rfl
@[simp] theorem beginEnc_step (cmd : Byte) (data : Half) (s : State) : (beginEnc cmd data s).step = .enc := rfl
@[simp] theorem beginEnc_op (cmd : Byte) (data : Half) (s : State) : (beginEnc cmd data s).op = s.op := rfl
@[simp] theorem beginEnc_cmd (cmd : Byte) (data : Half) (s : State) : (beginEnc cmd data s).cmd = cmd := rfl
@[simp] theorem beginEnc_data (cmd : Byte) (data : Half) (s : State) : (beginEnc cmd data s).data = data := rfl
@[simp] theorem beginEnc_mode (cmd : Byte) (data : Half) (s : State) : (beginEnc cmd data s).mode = s.mode := rfl
@[simp] theorem beginEnc_explen (cmd : Byte) (data : Half) (s : State) : (beginEnc cmd data s).explen = s.explen := rfl
@[simp] theorem beginEnc_opbuf (cmd : Byte) (data : Half) (s : State) : (beginEnc cmd data s).opbuf = s.opbuf := rfl
@[simp] theorem beginEnc_idx (cmd : Byte) (data : Half) (s : State) : (beginEnc cmd data s).idx = 0 := rfl
@[simp] theorem beginEnc_sum (cmd : Byte) (data : Half) (s : State) : (beginEnc cmd data s).sum = 0 := rfl
@[simp] theorem beginEnc_len (cmd : Byte) (data : Half) (s : State) : (beginEnc cmd data s).len = s.len := rfl
@[simp] theorem beginEnc_rxchk (cmd : Byte) (data : Half) (s : State) : (beginEnc cmd data s).rxchk = s.rxchk := rfl
@[simp] theorem beginEnc_payload (cmd : Byte) (data : Half) (s : State) : (beginEnc cmd data s).payload = s.payload := rfl
@[simp] theorem beginEnc_plen (cmd : Byte) (data : Half) (s : State) : (beginEnc cmd data s).plen = s.plen := rfl
@[simp] theorem beginEnc_status (cmd : Byte) (data : Half) (s : State) : (beginEnc cmd data s).status = s.status := rfl
@[simp] theorem beginEnc_resultValid (cmd : Byte) (data : Half) (s : State) : (beginEnc cmd data s).resultValid = s.resultValid := rfl
@[simp] theorem beginEnc_meas (cmd : Byte) (data : Half) (s : State) : (beginEnc cmd data s).meas = s.meas := rfl
@[simp] theorem beginEnc_requests (cmd : Byte) (data : Half) (s : State) : (beginEnc cmd data s).requests = s.requests := rfl
@[simp] theorem beginEnc_responses (cmd : Byte) (data : Half) (s : State) : (beginEnc cmd data s).responses = s.responses := rfl
@[simp] theorem beginEnc_txAnswers (cmd : Byte) (data : Half) (s : State) : (beginEnc cmd data s).txAnswers = s.txAnswers := rfl
@[simp] theorem beginEnc_rxAnswers (cmd : Byte) (data : Half) (s : State) : (beginEnc cmd data s).rxAnswers = s.rxAnswers := rfl
@[simp] theorem beginEnc_trace (cmd : Byte) (data : Half) (s : State) : (beginEnc cmd data s).trace = s.trace := rfl
@[simp] theorem beginEnc_pending (cmd : Byte) (data : Half) (s : State) : (beginEnc cmd data s).pending = s.pending := rfl
@[simp] theorem beginEnc_resetLine (cmd : Byte) (data : Half) (s : State) : (beginEnc cmd data s).resetLine = s.resetLine := rfl

/-! `beginDec` -/

@[simp] theorem beginDec_phase (n : Byte) (s : State) : (beginDec n s).phase = s.phase := rfl
@[simp] theorem beginDec_step (n : Byte) (s : State) : (beginDec n s).step = .dec := rfl
@[simp] theorem beginDec_op (n : Byte) (s : State) : (beginDec n s).op = s.op := rfl
@[simp] theorem beginDec_cmd (n : Byte) (s : State) : (beginDec n s).cmd = s.cmd := rfl
@[simp] theorem beginDec_data (n : Byte) (s : State) : (beginDec n s).data = s.data := rfl
@[simp] theorem beginDec_mode (n : Byte) (s : State) : (beginDec n s).mode = s.mode := rfl
@[simp] theorem beginDec_explen (n : Byte) (s : State) : (beginDec n s).explen = n := rfl
@[simp] theorem beginDec_opbuf (n : Byte) (s : State) : (beginDec n s).opbuf = s.opbuf := rfl
@[simp] theorem beginDec_idx (n : Byte) (s : State) : (beginDec n s).idx = 0 := rfl
@[simp] theorem beginDec_sum (n : Byte) (s : State) : (beginDec n s).sum = 0 := rfl
@[simp] theorem beginDec_len (n : Byte) (s : State) : (beginDec n s).len = s.len := rfl
@[simp] theorem beginDec_rxchk (n : Byte) (s : State) : (beginDec n s).rxchk = s.rxchk := rfl
@[simp] theorem beginDec_payload (n : Byte) (s : State) : (beginDec n s).payload = s.payload := rfl
@[simp] theorem beginDec_plen (n : Byte) (s : State) : (beginDec n s).plen = s.plen := rfl
@[simp] theorem beginDec_status (n : Byte) (s : State) : (beginDec n s).status = s.status := rfl
@[simp] theorem beginDec_resultValid (n : Byte) (s : State) : (beginDec n s).resultValid = s.resultValid := rfl
@[simp] theorem beginDec_meas (n : Byte) (s : State) : (beginDec n s).meas = s.meas := rfl
@[simp] theorem beginDec_requests (n : Byte) (s : State) : (beginDec n s).requests = s.requests := rfl
@[simp] theorem beginDec_responses (n : Byte) (s : State) : (beginDec n s).responses = s.responses := rfl
@[simp] theorem beginDec_txAnswers (n : Byte) (s : State) : (beginDec n s).txAnswers = s.txAnswers := rfl
@[simp] theorem beginDec_rxAnswers (n : Byte) (s : State) : (beginDec n s).rxAnswers = s.rxAnswers := rfl
@[simp] theorem beginDec_trace (n : Byte) (s : State) : (beginDec n s).trace = s.trace := rfl
@[simp] theorem beginDec_pending (n : Byte) (s : State) : (beginDec n s).pending = s.pending := rfl
@[simp] theorem beginDec_resetLine (n : Byte) (s : State) : (beginDec n s).resetLine = s.resetLine := rfl

/-! `beginVer` -/

@[simp] theorem beginVer_phase (s : State) : (beginVer s).phase = s.phase := rfl
@[simp] theorem beginVer_step (s : State) : (beginVer s).step = .ver := rfl
@[simp] theorem beginVer_op (s : State) : (beginVer s).op = s.op := rfl
@[simp] theorem beginVer_cmd (s : State) : (beginVer s).cmd = s.cmd := rfl
@[simp] theorem beginVer_data (s : State) : (beginVer s).data = s.data := rfl
@[simp] theorem beginVer_mode (s : State) : (beginVer s).mode = s.mode := rfl
@[simp] theorem beginVer_explen (s : State) : (beginVer s).explen = s.explen := rfl
@[simp] theorem beginVer_opbuf (s : State) : (beginVer s).opbuf = s.opbuf := rfl
@[simp] theorem beginVer_idx (s : State) : (beginVer s).idx = s.idx := rfl
@[simp] theorem beginVer_sum (s : State) : (beginVer s).sum = s.sum := rfl
@[simp] theorem beginVer_len (s : State) : (beginVer s).len = s.len := rfl
@[simp] theorem beginVer_rxchk (s : State) : (beginVer s).rxchk = s.rxchk := rfl
@[simp] theorem beginVer_payload (s : State) : (beginVer s).payload = s.payload := rfl
@[simp] theorem beginVer_plen (s : State) : (beginVer s).plen = s.plen := rfl
@[simp] theorem beginVer_status (s : State) : (beginVer s).status = s.status := rfl
@[simp] theorem beginVer_resultValid (s : State) : (beginVer s).resultValid = s.resultValid := rfl
@[simp] theorem beginVer_meas (s : State) : (beginVer s).meas = s.meas := rfl
@[simp] theorem beginVer_requests (s : State) : (beginVer s).requests = s.requests := rfl
@[simp] theorem beginVer_responses (s : State) : (beginVer s).responses = s.responses := rfl
@[simp] theorem beginVer_txAnswers (s : State) : (beginVer s).txAnswers = s.txAnswers := rfl
@[simp] theorem beginVer_rxAnswers (s : State) : (beginVer s).rxAnswers = s.rxAnswers := rfl
@[simp] theorem beginVer_trace (s : State) : (beginVer s).trace = s.trace := rfl
@[simp] theorem beginVer_pending (s : State) : (beginVer s).pending = s.pending := rfl
@[simp] theorem beginVer_resetLine (s : State) : (beginVer s).resetLine = s.resetLine := rfl

/-! `beginExt` -/

@[simp] theorem beginExt_phase (s : State) : (beginExt s).phase = s.phase := rfl
@[simp] theorem beginExt_step (s : State) : (beginExt s).step = .ext := rfl
@[simp] theorem beginExt_op (s : State) : (beginExt s).op = s.op := rfl
@[simp] theorem beginExt_cmd (s : State) : (beginExt s).cmd = s.cmd := rfl
@[simp] theorem beginExt_data (s : State) : (beginExt s).data = s.data := rfl
@[simp] theorem beginExt_mode (s : State) : (beginExt s).mode = s.mode := rfl
@[simp] theorem beginExt_explen (s : State) : (beginExt s).explen = s.explen := rfl
@[simp] theorem beginExt_opbuf (s : State) : (beginExt s).opbuf = s.opbuf := rfl
@[simp] theorem beginExt_idx (s : State) : (beginExt s).idx = s.idx := rfl
@[simp] theorem beginExt_sum (s : State) : (beginExt s).sum = s.sum := rfl
@[simp] theorem beginExt_len (s : State) : (beginExt s).len = s.len := rfl
@[simp] theorem beginExt_rxchk (s : State) : (beginExt s).rxchk = s.rxchk := rfl
@[simp] theorem beginExt_payload (s : State) : (beginExt s).payload = s.payload := rfl
@[simp] theorem beginExt_plen (s : State) : (beginExt s).plen = s.plen := rfl
@[simp] theorem beginExt_status (s : State) : (beginExt s).status = s.status := rfl
@[simp] theorem beginExt_resultValid (s : State) : (beginExt s).resultValid = s.resultValid := rfl
@[simp] theorem beginExt_meas (s : State) : (beginExt s).meas = s.meas := rfl
@[simp] theorem beginExt_requests (s : State) : (beginExt s).requests = s.requests := rfl
@[simp] theorem beginExt_responses (s : State) : (beginExt s).responses = s.responses := rfl
@[simp] theorem beginExt_txAnswers (s : State) : (beginExt s).txAnswers = s.txAnswers := rfl
@[simp] theorem beginExt_rxAnswers (s : State) : (beginExt s).rxAnswers = s.rxAnswers := rfl
@[simp] theorem beginExt_trace (s : State) : (beginExt s).trace = s.trace := rfl
@[simp] theorem beginExt_pending (s : State) : (beginExt s).pending = s.pending := rfl
@[simp] theorem beginExt_resetLine (s : State) : (beginExt s).resetLine = s.resetLine := rfl

/-! `summed` -/

@[simp] theorem summed_phase (b : Byte) (s : State) : (summed b s).phase = s.phase := rfl
@[simp] theorem summed_step (b : Byte) (s : State) : (summed b s).step = s.step := rfl
@[simp] theorem summed_op (b : Byte) (s : State) : (summed b s).op = s.op := rfl
@[simp] theorem summed_cmd (b : Byte) (s : State) : (summed b s).cmd = s.cmd := rfl
@[simp] theorem summed_data (b : Byte) (s : State) : (summed b s).data = s.data := rfl
@[simp] theorem summed_mode (b : Byte) (s : State) : (summed b s).mode = s.mode := rfl
@[simp] theorem summed_explen (b : Byte) (s : State) : (summed b s).explen = s.explen := rfl
@[simp] theorem summed_opbuf (b : Byte) (s : State) : (summed b s).opbuf = s.opbuf := rfl
@[simp] theorem summed_idx (b : Byte) (s : State) : (summed b s).idx = s.idx + 1 := rfl
@[simp] theorem summed_sum (b : Byte) (s : State) : (summed b s).sum = addByte s.sum b := rfl
@[simp] theorem summed_len (b : Byte) (s : State) : (summed b s).len = s.len := rfl
@[simp] theorem summed_rxchk (b : Byte) (s : State) : (summed b s).rxchk = s.rxchk := rfl
@[simp] theorem summed_payload (b : Byte) (s : State) : (summed b s).payload = s.payload := rfl
@[simp] theorem summed_plen (b : Byte) (s : State) : (summed b s).plen = s.plen := rfl
@[simp] theorem summed_status (b : Byte) (s : State) : (summed b s).status = s.status := rfl
@[simp] theorem summed_resultValid (b : Byte) (s : State) : (summed b s).resultValid = s.resultValid := rfl
@[simp] theorem summed_meas (b : Byte) (s : State) : (summed b s).meas = s.meas := rfl
@[simp] theorem summed_requests (b : Byte) (s : State) : (summed b s).requests = s.requests := rfl
@[simp] theorem summed_responses (b : Byte) (s : State) : (summed b s).responses = s.responses := rfl
@[simp] theorem summed_txAnswers (b : Byte) (s : State) : (summed b s).txAnswers = s.txAnswers := rfl
@[simp] theorem summed_rxAnswers (b : Byte) (s : State) : (summed b s).rxAnswers = s.rxAnswers := rfl
@[simp] theorem summed_trace (b : Byte) (s : State) : (summed b s).trace = s.trace := rfl
@[simp] theorem summed_pending (b : Byte) (s : State) : (summed b s).pending = s.pending := rfl
@[simp] theorem summed_resetLine (b : Byte) (s : State) : (summed b s).resetLine = s.resetLine := rfl

/-! `takeReset`: the registers are those of reset, the channels and the transport stay. -/

@[simp] theorem takeReset_phase (s : State) : (takeReset s).phase = State.reset.phase := rfl
@[simp] theorem takeReset_step (s : State) : (takeReset s).step = State.reset.step := rfl
@[simp] theorem takeReset_op (s : State) : (takeReset s).op = State.reset.op := rfl
@[simp] theorem takeReset_cmd (s : State) : (takeReset s).cmd = State.reset.cmd := rfl
@[simp] theorem takeReset_data (s : State) : (takeReset s).data = State.reset.data := rfl
@[simp] theorem takeReset_mode (s : State) : (takeReset s).mode = State.reset.mode := rfl
@[simp] theorem takeReset_explen (s : State) : (takeReset s).explen = State.reset.explen := rfl
@[simp] theorem takeReset_opbuf (s : State) : (takeReset s).opbuf = State.reset.opbuf := rfl
@[simp] theorem takeReset_idx (s : State) : (takeReset s).idx = State.reset.idx := rfl
@[simp] theorem takeReset_sum (s : State) : (takeReset s).sum = State.reset.sum := rfl
@[simp] theorem takeReset_len (s : State) : (takeReset s).len = State.reset.len := rfl
@[simp] theorem takeReset_rxchk (s : State) : (takeReset s).rxchk = State.reset.rxchk := rfl
@[simp] theorem takeReset_payload (s : State) : (takeReset s).payload = State.reset.payload := rfl
@[simp] theorem takeReset_plen (s : State) : (takeReset s).plen = State.reset.plen := rfl
@[simp] theorem takeReset_status (s : State) : (takeReset s).status = State.reset.status := rfl
@[simp] theorem takeReset_resultValid (s : State) : (takeReset s).resultValid = State.reset.resultValid := rfl
@[simp] theorem takeReset_meas (s : State) : (takeReset s).meas = State.reset.meas := rfl
@[simp] theorem takeReset_requests (s : State) : (takeReset s).requests = s.requests := rfl
@[simp] theorem takeReset_responses (s : State) : (takeReset s).responses = s.responses := rfl
@[simp] theorem takeReset_txAnswers (s : State) : (takeReset s).txAnswers = s.txAnswers := rfl
@[simp] theorem takeReset_rxAnswers (s : State) : (takeReset s).rxAnswers = if s.abandonedReadConsumes then s.rxAnswers.drop 1 else s.rxAnswers := rfl
@[simp] theorem takeReset_trace (s : State) : (takeReset s).trace = s.observedTrace := rfl
@[simp] theorem takeReset_pending (s : State) : (takeReset s).pending = State.reset.pending := rfl
@[simp] theorem takeReset_resetLine (s : State) : (takeReset s).resetLine = s.resetLine := rfl

end Sys2Proof.Machine
end

