-- ==== Sys2Proof/Laws/Ops.lean ====
section
/-! SUPPORT. For each shared operation, once, everything it can do. -/

namespace Sys2Proof.Machine

/-! The transport calls, by the next answer. -/

theorem txWrite_ok {s : State} {rest : List TxAnswer} (b : Byte) (onOk : State → State)
    (h : s.txAnswers = .ok :: rest) :
    txWrite b onOk s = onOk { s with txAnswers := rest, trace := s.trace ++ [.write b .ok] } := by
  simp [txWrite, h]

theorem txWrite_fail {s : State} {rest : List TxAnswer} (b : Byte) (onOk : State → State)
    (h : s.txAnswers = .fail :: rest) :
    txWrite b onOk s =
      raise .writeFailure { s with txAnswers := rest, trace := s.trace ++ [.write b .fail] } := by
  simp [txWrite, h]

theorem txWrite_never {s : State} {rest : List TxAnswer} (b : Byte) (onOk : State → State)
    (h : s.txAnswers = .never :: rest) :
    txWrite b onOk s = { s with txAnswers := rest, pending := some (.write b) } := by
  simp [txWrite, h]

theorem txWrite_nil {s : State} (b : Byte) (onOk : State → State) (h : s.txAnswers = []) :
    txWrite b onOk s = { s with pending := some (.write b) } := by
  simp [txWrite, h]

/-- A write goes on, fails, or stays pending (R34). -/
theorem txWrite_cases (b : Byte) (onOk : State → State) (s : State) :
    (∃ rest, s.txAnswers = .ok :: rest ∧
      txWrite b onOk s = onOk { s with txAnswers := rest, trace := s.trace ++ [.write b .ok] }) ∨
    (∃ rest, s.txAnswers = .fail :: rest ∧
      txWrite b onOk s =
        raise .writeFailure { s with txAnswers := rest, trace := s.trace ++ [.write b .fail] }) ∨
    (txWrite b onOk s =
      { s with txAnswers := s.txAnswers.tail, pending := some (.write b) }) := by
  rcases h : s.txAnswers with _ | ⟨a, rest⟩
  · right; right
    rw [txWrite_nil b onOk h]
    cases s
    simp_all
  · cases a
    · exact .inl ⟨rest, rfl, txWrite_ok b onOk h⟩
    · exact .inr (.inl ⟨rest, rfl, txWrite_fail b onOk h⟩)
    · exact .inr (.inr (txWrite_never b onOk h))

theorem rxRead_byte {s : State} {b : Byte} {rest : List RxAnswer} (onByte : Byte → State → Result3)
    (h : s.rxAnswers = .byte b :: rest) :
    rxRead onByte s = onByte b { s with rxAnswers := rest, trace := s.trace ++ [.read (.byte b)] } := by
  simp [rxRead, h]

theorem rxRead_fail {s : State} {rest : List RxAnswer} (onByte : Byte → State → Result3)
    (h : s.rxAnswers = .fail :: rest) :
    rxRead onByte s =
      .next (raise .readFailure { s with rxAnswers := rest, trace := s.trace ++ [.read .fail] }) := by
  simp [rxRead, h]

theorem rxRead_never {s : State} {rest : List RxAnswer} (onByte : Byte → State → Result3)
    (h : s.rxAnswers = .never :: rest) :
    rxRead onByte s = .next { s with rxAnswers := rest, pending := some .read } := by
  simp [rxRead, h]

theorem rxRead_nil {s : State} (onByte : Byte → State → Result3) (h : s.rxAnswers = []) :
    rxRead onByte s = .next { s with pending := some .read } := by
  simp [rxRead, h]

/-- A read delivers a byte, fails, or stays pending (R34). -/
theorem rxRead_cases (onByte : Byte → State → Result3) (s : State) :
    (∃ b rest, s.rxAnswers = .byte b :: rest ∧
      rxRead onByte s = onByte b { s with rxAnswers := rest, trace := s.trace ++ [.read (.byte b)] }) ∨
    (∃ rest, s.rxAnswers = .fail :: rest ∧
      rxRead onByte s =
        .next (raise .readFailure { s with rxAnswers := rest, trace := s.trace ++ [.read .fail] })) ∨
    (rxRead onByte s = .next { s with rxAnswers := s.rxAnswers.tail, pending := some .read }) := by
  rcases h : s.rxAnswers with _ | ⟨a, rest⟩
  · right; right
    rw [rxRead_nil onByte h]
    cases s
    simp_all
  · cases a with
    | byte b => exact .inl ⟨b, rest, rfl, rxRead_byte onByte h⟩
    | fail => exact .inr (.inl ⟨rest, rfl, rxRead_fail onByte h⟩)
    | never => exact .inr (.inr (rxRead_never onByte h))

/-! One field of a received frame. -/

/-- What DEC does with a byte (R121): the state after the update `u`, or that state with an error raised, or, where the
last byte makes RXCHK equal to SUM, the accepted frame and then `after`. -/
theorem decodeField_cases {n : Nat} {after : State → State} {field : FrameField} {b : Byte} {s t : State}
    (h : decodeField n after field b s = .next t) :
    (∃ u, (t = u ∨ ∃ kind, t = raise kind u) ∧
      (u = summed b s ∨ (∃ l, u = { summed b s with len := l }) ∨
        (∃ i, ∃ hi : i < Config.maxPayload, field = .payload i ∧
          u = { summed b s with payload := s.payload.set i b hi }) ∨
        (∃ c, u = { s with rxchk := c, idx := s.idx + 1 }))) ∨
    (field = .chkLo ∧ t = after { s with rxchk := s.sum, idx := s.idx + 1, plen := BitVec.ofNat 8 n }) := by
  cases field <;> simp only [decodeField, Host.Outcome.next.injEq] at h
  case start1 =>
    refine .inl ⟨summed b s, ?_, .inl rfl⟩
    unfold check at h
    split at h
    · exact .inl h.symm
    · exact .inr ⟨_, h.symm⟩
  case start2 =>
    refine .inl ⟨summed b s, ?_, .inl rfl⟩
    unfold check at h
    split at h
    · exact .inl h.symm
    · exact .inr ⟨_, h.symm⟩
  case lenHi => exact .inl ⟨_, .inl h.symm, .inr (.inl ⟨_, rfl⟩)⟩
  case lenLo =>
    refine .inl ⟨{ summed b s with len := setLo s.len b }, ?_, .inr (.inl ⟨_, rfl⟩)⟩
    unfold check at h
    split at h
    · exact .inl h.symm
    · exact .inr ⟨_, h.symm⟩
  case payload i =>
    unfold writePayload at h
    split at h
    · rename_i hi
      simp only [Host.Outcome.next.injEq] at h
      exact .inl ⟨_, .inl h.symm, .inr (.inr (.inl ⟨i, hi, rfl, rfl⟩))⟩
    · cases h
  case chkHi => exact .inl ⟨_, .inl h.symm, .inr (.inr (.inr ⟨_, rfl⟩))⟩
  case chkLo =>
    split at h
    · rename_i hc
      simp only [Host.Outcome.next.injEq] at h
      exact .inr ⟨rfl, by rw [← h, hc]⟩
    · simp only [Host.Outcome.next.injEq] at h
      exact .inl ⟨_, .inr ⟨_, h.symm⟩, .inr (.inr (.inr ⟨_, rfl⟩))⟩

/-- The fields lie where R121 puts them: PAYLOAD offset `i` at index `i + 4`, below the payload length. -/
theorem fieldAt_payload {n idx i : Nat} (h : fieldAt n idx = some (.payload i)) : idx = i + 4 ∧ i < n := by
  unfold fieldAt at h
  split_ifs at h <;> cases h
  omega

/-- A field lies at an index exactly below the frame's length (R73). -/
theorem fieldAt_isSome_iff (n idx : Nat) : (fieldAt n idx).isSome ↔ idx < n + Config.frameOverhead := by
  unfold fieldAt
  split_ifs <;> simp [Config.frameOverhead] <;> omega

/-! The two arrays. -/

/-- A read of the PAYLOAD byte just written gives the byte. -/
theorem writePayload_read_same {i : Nat} {b : Byte} {s t : State} (h : writePayload i b s = .next t) :
    t.payload[i]? = some b := by
  unfold writePayload at h
  split at h
  · cases h
    simp
  · cases h

/-- A write to PAYLOAD leaves every other byte, and everything else, alone. -/
theorem writePayload_read_other {i j : Nat} {b : Byte} {s t : State} (h : writePayload i b s = .next t)
    (hij : i ≠ j) : t.payload[j]? = s.payload[j]? := by
  unfold writePayload at h
  split at h
  · cases h
    simp [Vector.getElem?_set_ne, hij]
  · cases h

/-- A write to PAYLOAD faults exactly beyond the array. -/
theorem writePayload_next_iff (i : Nat) (b : Byte) (s : State) :
    (∃ t, writePayload i b s = .next t) ↔ i < Config.maxPayload := by
  unfold writePayload
  split <;> simp_all

/-- The twelve fields, read one by one (R150): `A[2*i] ++ A[2*i+1]`. -/
theorem measurementFields_getElem {n : Nat} (a : Vector Byte n) (h : 24 ≤ n) (i : Nat) (hi : i < 12) :
    (measurementFields a h)[i] = be16 (a[2 * i]'(by omega)) (a[2 * i + 1]'(by omega)) := by
  simp [measurementFields]

/-! ENC, EXT and VER. -/

/-- One step of ENC (R101): the byte accepted, SUM and IDX advanced, the frame done after index 6; or WriteFailure; or
the write pending. -/
theorem encStep_cases (cmd : Byte) (data : Half) (after : State → State) (s : State) :
    (∃ rest u, s.txAnswers = .ok :: rest ∧
      u = { s with
        txAnswers := rest, trace := s.trace ++ [.write (encoderByte cmd data s.sum s.idx.toNat) .ok],
        sum := encoderSum cmd data s.sum s.idx.toNat, idx := s.idx + 1 } ∧
      encStep cmd data after s = if s.idx = 6 then after u else u) ∨
    (∃ rest, s.txAnswers = .fail :: rest ∧
      encStep cmd data after s =
        raise .writeFailure { s with
          txAnswers := rest, trace := s.trace ++ [.write (encoderByte cmd data s.sum s.idx.toNat) .fail] }) ∨
    (encStep cmd data after s =
      { s with
        txAnswers := s.txAnswers.tail, pending := some (.write (encoderByte cmd data s.sum s.idx.toNat)) }) := by
  rcases txWrite_cases (encoderByte cmd data s.sum s.idx.toNat) (fun t =>
      let t' := { t with sum := encoderSum cmd data t.sum t.idx.toNat, idx := t.idx + 1 }
      if t.idx = 6 then after t' else t') s with ⟨rest, h, e⟩ | ⟨rest, h, e⟩ | e
  · exact .inl ⟨rest, _, h, rfl, e⟩
  · exact .inr (.inl ⟨rest, h, e⟩)
  · exact .inr (.inr e)

/-- VER (R174): completion on the expected echo, UnexpectedResponse on any other. -/
theorem verifyAndComplete_cases (c m : Byte) (s : State) :
    (s.payload[0] = c ∧ s.payload[1] = m ∧
      verifyAndComplete c m s = complete .empty s) ∨
    ((s.payload[0] ≠ c ∨ s.payload[1] ≠ m) ∧
      verifyAndComplete c m s = raise .unexpectedResponse s) := by
  unfold verifyAndComplete
  split
  · rename_i h
    exact .inr ⟨h, rfl⟩
  · rename_i h
    simp only [not_or, not_not] at h
    exact .inl ⟨h.1, h.2, rfl⟩

/-! What the wire holds. -/

/-- The wire of a trace is that of its parts, each at its place (R51, R61). -/
theorem wireFrom_append (n : Nat) (xs ys : List Event) :
    wireFrom n (xs ++ ys) = wireFrom n xs ++ wireFrom (n + xs.length) ys := by
  induction xs generalizing n with
  | nil => rfl
  | cons x xs ih =>
    have hn : n + (x :: xs).length = n + 1 + xs.length := by
      simp only [List.length_cons]
      omega
    rw [hn, List.cons_append]
    rcases x with ⟨b, _ | _ | _⟩ | _ <;> simp only [wireFrom, ih] <;> first | rfl | (split <;> rfl)

end Sys2Proof.Machine
end

