-- ==== Sys2Proof/Laws/PerInstr.lean ====
section
/-! SUPPORT. A statement about every instruction as syntax, one lemma per constructor: a request is one word whose OP
names an operation (spec/30_encoding.md R78, R80), a wire command is seven bytes that begin with the start bytes (R70). -/

namespace Sys2Proof.Laws

/-- The code of an instruction: a word with OP from 1 to 7, or a frame of seven bytes. -/
def CodeShape.Statement (i : Instr) : Prop :=
  match Sys2Proof.encode i with
  | .request r => 1 ≤ (opField r.word).toNat ∧ (opField r.word).toNat ≤ 7
  | .frame bytes => bytes.length = 7 ∧ bytes.take 2 = [0x42, 0x4D]

theorem CodeShape.encode (cmd : Byte) (data : Half) : CodeShape.Statement (.encode cmd data) := by
  have := cmd.isLt
  have := data.isLt
  simp only [CodeShape.Statement, Sys2Proof.encode, toNat_opField, toNat_formatC]
  simp
  omega

theorem CodeShape.decode (n : Byte) : CodeShape.Statement (.decode n) := by
  have := n.isLt
  simp only [CodeShape.Statement, Sys2Proof.encode, toNat_opField, toNat_formatL]
  simp
  omega

theorem CodeShape.extract (payload : Operand) : CodeShape.Statement (.extract payload) := by
  simp [CodeShape.Statement, Sys2Proof.encode, toNat_opField, toNat_formatN]

theorem CodeShape.setDataMode (mode : BitVec 1) : CodeShape.Statement (.setDataMode mode) := by
  have := mode.isLt
  simp only [CodeShape.Statement, Sys2Proof.encode, toNat_opField, toNat_formatM]
  simp
  omega

theorem CodeShape.getPassive : CodeShape.Statement .getPassive := by
  simp [CodeShape.Statement, Sys2Proof.encode, toNat_opField, toNat_formatN]

theorem CodeShape.getActive : CodeShape.Statement .getActive := by
  simp [CodeShape.Statement, Sys2Proof.encode, toNat_opField, toNat_formatN]

theorem CodeShape.sleepSet (mode : BitVec 1) : CodeShape.Statement (.sleepSet mode) := by
  have := mode.isLt
  simp only [CodeShape.Statement, Sys2Proof.encode, toNat_opField, toNat_formatM]
  simp
  omega

theorem CodeShape.wireChangeMode (data : Half) : CodeShape.Statement (.wireChangeMode data) := ⟨rfl, rfl⟩

theorem CodeShape.wireReadPassive : CodeShape.Statement .wireReadPassive := ⟨rfl, rfl⟩

theorem CodeShape.wireSleepSet (data : Half) : CodeShape.Statement (.wireSleepSet data) := ⟨rfl, rfl⟩

end Sys2Proof.Laws
end

