-- ==== Sys2Proof/Laws/Step.lean ====
section
/-! SUPPORT. What one instruction and one step can do, said once: a later proof takes a step apart with `exec_idle_cases`,
`exec_busy_cases` and `step_cases`, and never unfolds a meaning. -/

namespace Sys2Proof.Machine

/-! The parts an instruction is made of. -/

/-- The command frame an instruction sends, and what follows its last byte (R100, R170, R171, R173). -/
def framePart : Instr → Option (Byte × Half × (State → State))
  | .encode c d => some (c, d, id)
  | .setDataMode m => some (Config.cmdChangeMode, modeData m, afterSetDataModeFrame)
  | .getPassive => some (Config.cmdReadPassive, 0, afterGetPassiveFrame)
  | .sleepSet m => some (Config.cmdSleepSet, modeData m, afterSleepSetFrame m)
  | .wireChangeMode d => some (Config.cmdChangeMode, d, afterSetDataModeFrame)
  | .wireReadPassive => some (Config.cmdReadPassive, 0, afterGetPassiveFrame)
  | .wireSleepSet d => some (Config.cmdSleepSet, d, afterSleepSetFrame (d.extractLsb' 0 1))
  | .decode _ => none
  | .extract _ => none
  | .getActive => none

/-- The payload length an instruction receives, and what follows the last byte of an accepted frame (R120, R170 to
R173). -/
def receivePart : Instr → Option (Nat × (State → State))
  | .decode n => some (n.toNat, id)
  | .setDataMode _ => some (Config.responseLength, beginVer)
  | .getPassive => some (Config.measurementLength, beginExt)
  | .getActive => some (Config.measurementLength, beginExt)
  | .sleepSet m => if m = 0 then some (Config.responseLength, beginVer) else none
  | .encode _ _ => none
  | .extract _ => none
  | .wireChangeMode _ => none
  | .wireReadPassive => none
  | .wireSleepSet _ => none

/-- How an operation ends when its transport calls are done, and in which sub-operation (R28, R100, R120, R150, R170 to
R173). -/
def finishPart : Instr → State → Option (SubOp × State)
  | .encode _ _, s => some (.enc, complete .empty s)
  | .decode _, s => some (.dec, complete (.payload (payloadPart s.payload s.plen.toNat)) s)
  | .extract a, s => some (.ext, extractAndComplete a (by decide) s)
  | .setDataMode m, s => some (.ver, verifyAndComplete Config.cmdChangeMode (modeByte m) s)
  | .getPassive, s => some (.ext, extractAndComplete s.payload (by decide) s)
  | .getActive, s => some (.ext, extractAndComplete s.payload (by decide) s)
  | .sleepSet m, s =>
    if m = 0 then some (.ver, verifyAndComplete Config.cmdSleepSet 0 s) else some (.enc, complete .empty s)
  | .wireChangeMode _, _ => none
  | .wireReadPassive, _ => none
  | .wireSleepSet _, _ => none

/-- The state acceptance leaves (R84). -/
def acceptPart : Instr → State → Option State
  | .encode c d, s => some (beginEnc c d (accept .encode s))
  | .decode n, s => if n.toNat ≤ Config.maxPayload then some (beginDec n (accept .decode s)) else none
  | .extract a, s => some (beginExt { accept .extract s with opbuf := a })
  | .setDataMode m, s => some (acceptSetDataMode m s)
  | .getPassive, s => some (acceptGetPassive s)
  | .getActive, s => some (beginDec 26 (accept .getActive s))
  | .sleepSet m, s => some (acceptSleepSet m s)
  | .wireChangeMode _, _ => none
  | .wireReadPassive, _ => none
  | .wireSleepSet _, _ => none

theorem sendFrame_next {c : Byte} {d : Half} {after : State → State} {s t : State}
    (h : sendFrame c d after s = .next t) : s.step = .enc ∧ s.idx.toNat < 7 ∧ t = encStep c d after s := by
  unfold sendFrame at h
  split at h
  · rename_i hc
    cases h
    exact ⟨hc.1, hc.2, rfl⟩
  · cases h

theorem sendFrame_of_enc {c : Byte} {d : Half} {after : State → State} {s : State} (he : s.step = .enc)
    (hi : s.idx.toNat < 7) : sendFrame c d after s = .next (encStep c d after s) := by
  simp [sendFrame, he, Config.commandFrameLength, hi]

theorem decStep_next {n : Nat} {after : State → State} {s t : State} (h : decStep n after s = .next t) :
    ∃ field, fieldAt n s.idx.toNat = some field ∧ rxRead (decodeField n after field) s = .next t := by
  unfold decStep at h
  split at h
  · rename_i field hf
    exact ⟨field, hf, h⟩
  · cases h

theorem decStep_of_field {n : Nat} {after : State → State} {s : State} {field : FrameField}
    (h : fieldAt n s.idx.toNat = some field) : decStep n after s = rxRead (decodeField n after field) s := by
  simp [decStep, h]

/-! ENC against its frame. -/

/-- IDX below its largest value advances by one. -/
theorem toNat_add_one {x : Byte} (h : x.toNat < 255) : (x + 1).toNat = x.toNat + 1 := by
  bv_omega

/-- The byte ENC writes at an index, with SUM the sum of the bytes sent, is the byte of the frame (R101). -/
theorem encoderByte_coveredSum {c b : Byte} {d : Half} {k : Nat} (h : (commandFrame c d)[k]? = some b) :
    encoderByte c d (coveredSum c d k) k = b := by
  obtain ⟨hk, _⟩ := List.getElem?_eq_some_iff.1 h
  have hk : k < 7 := hk
  rcases k with _ | _ | _ | _ | _ | _ | _ | k <;>
    first
      | omega
      | (simp [commandFrame, encoderByte, coveredSum, sumBytes, addByte, chkCmd] at h ⊢
         simpa using h)

/-- SUM after a write is again the sum of the bytes sent (R101). -/
theorem encoderSum_coveredSum (c : Byte) (d : Half) {k : Nat} (h : k < 7) :
    encoderSum c d (coveredSum c d k) k = coveredSum c d (k + 1) := by
  rcases k with _ | _ | _ | _ | _ | _ | _ | k <;>
    first
      | omega
      | simp [encoderSum, coveredSum, commandFrame, encoderByte, sumBytes]

/-! Each meaning in BUSY, as one equation. -/

theorem exec_encode_busy {s : State} (h : s.phase = .busy) (c : Byte) (d : Half) :
    exec (.encode c d) s =
      if s.step = .enc ∧ s.idx.toNat = 7 then .next (complete .empty s) else sendFrame c d id s := by
  simp only [exec, execEncode, h]

theorem exec_decode_busy {s : State} (h : s.phase = .busy) (n : Byte) :
    exec (.decode n) s =
      if s.step = .dec then
        if s.idx.toNat = n.toNat + 6 then .next (complete (.payload (payloadPart s.payload s.plen.toNat)) s)
        else decStep n.toNat id s
      else .fault .sequencer := by
  simp only [exec, execDecode, h, Config.frameOverhead]

theorem exec_extract_busy {s : State} (h : s.phase = .busy) (a : Operand) :
    exec (.extract a) s =
      if s.step = .ext then .next (extractAndComplete a (by decide) s) else .fault .sequencer := by
  simp only [exec, execExtract, h]

theorem exec_setDataMode_busy {s : State} (h : s.phase = .busy) (m : BitVec 1) :
    exec (.setDataMode m) s =
      match s.step with
      | .enc => sendFrame Config.cmdChangeMode (modeData m) afterSetDataModeFrame s
      | .dec => decStep 2 beginVer s
      | .ver => .next (verifyAndComplete Config.cmdChangeMode (modeByte m) s)
      | .ext => .fault .sequencer := by
  cases hs : s.step <;> simp only [exec, execSetDataMode, h, hs, Config.responseLength]

theorem exec_getPassive_busy {s : State} (h : s.phase = .busy) :
    exec .getPassive s =
      match s.step with
      | .enc => sendFrame Config.cmdReadPassive 0 afterGetPassiveFrame s
      | .dec => decStep 26 beginExt s
      | .ext => .next (extractAndComplete s.payload (by decide) s)
      | .ver => .fault .sequencer := by
  cases hs : s.step <;> simp only [exec, execGetPassive, h, hs, Config.measurementLength]

theorem exec_getActive_busy {s : State} (h : s.phase = .busy) :
    exec .getActive s =
      match s.step with
      | .dec => decStep 26 beginExt s
      | .ext => .next (extractAndComplete s.payload (by decide) s)
      | .enc => .fault .sequencer
      | .ver => .fault .sequencer := by
  cases hs : s.step <;> simp only [exec, execGetActive, h, hs, Config.measurementLength]

theorem exec_sleepSet_busy {s : State} (h : s.phase = .busy) (m : BitVec 1) :
    exec (.sleepSet m) s =
      match s.step with
      | .enc =>
        if m = 1 ∧ s.idx.toNat = 7 then .next (complete .empty s)
        else sendFrame Config.cmdSleepSet (modeData m) (afterSleepSetFrame m) s
      | .dec => if m = 0 then decStep 2 beginVer s else .fault .sequencer
      | .ver => if m = 0 then .next (verifyAndComplete Config.cmdSleepSet 0 s) else .fault .sequencer
      | .ext => .fault .sequencer := by
  cases hs : s.step <;> simp only [exec, execSleepSet, h, hs, Config.responseLength]

theorem exec_wireChangeMode_busy {s : State} (h : s.phase = .busy) (d : Half) :
    exec (.wireChangeMode d) s = sendFrame Config.cmdChangeMode d afterSetDataModeFrame s := by
  simp only [exec, execWireChangeMode, h]

theorem exec_wireReadPassive_busy {s : State} (h : s.phase = .busy) :
    exec .wireReadPassive s = sendFrame Config.cmdReadPassive 0 afterGetPassiveFrame s := by
  simp only [exec, execWireReadPassive, h]

theorem exec_wireSleepSet_busy {s : State} (h : s.phase = .busy) (d : Half) :
    exec (.wireSleepSet d) s =
      sendFrame Config.cmdSleepSet d (afterSleepSetFrame (d.extractLsb' 0 1)) s := by
  simp only [exec, execWireSleepSet, h]

/-- In IDLE an instruction that answers a next state has been accepted (R84). -/
theorem exec_idle_cases {i : Instr} {s t : State} (hp : s.phase = .idle) (h : exec i s = .next t) :
    acceptPart i s = some t := by
  cases i <;>
    simp only [exec, execEncode, execDecode, execExtract, execSetDataMode, execGetPassive, execGetActive,
      execSleepSet, execWireChangeMode, execWireReadPassive, execWireSleepSet, hp] at h <;>
    first
      | (cases h; rfl)
      | contradiction
      | (split at h
         · rename_i hn
           cases h
           simp [acceptPart, hn]
         · cases h)

/-- In BUSY an instruction that answers a next state makes one write of its frame, or one read of its frame, or ends. -/
theorem exec_busy_cases {i : Instr} {s t : State} (hp : s.phase = .busy) (h : exec i s = .next t) :
    (∃ c d after, framePart i = some (c, d, after) ∧ s.step = .enc ∧ s.idx.toNat < 7 ∧ t = encStep c d after s) ∨
    (∃ n after field, receivePart i = some (n, after) ∧ s.step = .dec ∧ fieldAt n s.idx.toNat = some field ∧
      rxRead (decodeField n after field) s = .next t) ∨
    finishPart i s = some (s.step, t) := by
  have send {c d after} (hf : framePart i = some (c, d, after)) (hs : sendFrame c d after s = .next t) :=
    (⟨c, d, after, hf, sendFrame_next hs⟩ : ∃ c d after, framePart i = some (c, d, after) ∧ s.step = .enc ∧
      s.idx.toNat < 7 ∧ t = encStep c d after s)
  have receive {n after} (hf : receivePart i = some (n, after)) (hs : s.step = .dec)
      (hd : decStep n after s = .next t) : ∃ n after field, receivePart i = some (n, after) ∧ s.step = .dec ∧
        fieldAt n s.idx.toNat = some field ∧ rxRead (decodeField n after field) s = .next t :=
    let ⟨field, hfield, hr⟩ := decStep_next hd
    ⟨n, after, field, hf, hs, hfield, hr⟩
  cases i with
  | encode c d =>
    rw [exec_encode_busy hp] at h
    split at h
    · rename_i hs
      cases h
      exact .inr (.inr (by rw [hs.1]; rfl))
    · exact .inl (send rfl h)
  | decode n =>
    rw [exec_decode_busy hp] at h
    split at h
    · rename_i hs
      split at h
      · cases h
        exact .inr (.inr (by rw [hs]; rfl))
      · exact .inr (.inl (receive rfl hs h))
    · cases h
  | extract a =>
    rw [exec_extract_busy hp] at h
    split at h
    · rename_i hs
      cases h
      exact .inr (.inr (by rw [hs]; rfl))
    · cases h
  | setDataMode m =>
    rw [exec_setDataMode_busy hp] at h
    split at h <;> rename_i hs
    · exact .inl (send rfl h)
    · exact .inr (.inl (receive rfl hs h))
    · cases h
      exact .inr (.inr (by rw [hs]; rfl))
    · cases h
  | getPassive =>
    rw [exec_getPassive_busy hp] at h
    split at h <;> rename_i hs
    · exact .inl (send rfl h)
    · exact .inr (.inl (receive rfl hs h))
    · cases h
      exact .inr (.inr (by rw [hs]; rfl))
    · cases h
  | getActive =>
    rw [exec_getActive_busy hp] at h
    split at h <;> rename_i hs
    · exact .inr (.inl (receive rfl hs h))
    · cases h
      exact .inr (.inr (by rw [hs]; rfl))
    · cases h
    · cases h
  | sleepSet m =>
    rw [exec_sleepSet_busy hp] at h
    split at h <;> rename_i hs <;> try split at h
    · rename_i hm
      cases h
      exact .inr (.inr (by simp [finishPart, hm.1, hs]))
    · exact .inl (send rfl h)
    · rename_i hm
      exact .inr (.inl (receive (by simp [receivePart, hm, Config.responseLength]) hs h))
    · cases h
    · rename_i hm
      cases h
      exact .inr (.inr (by simp [finishPart, hm, hs]))
    · cases h
    · cases h
  | wireChangeMode d =>
    rw [exec_wireChangeMode_busy hp] at h
    exact .inl (send rfl h)
  | wireReadPassive =>
    rw [exec_wireReadPassive_busy hp] at h
    exact .inl (send rfl h)
  | wireSleepSet d =>
    rw [exec_wireSleepSet_busy hp] at h
    exact .inl (send rfl h)

/-! The step. -/

/-- Where no reset is due, the fetch goes by PHASE, the reset input one sample on. -/
theorem fetch_of_not_resetDue {s : State} (h : ¬ ResetDue s) :
    fetch s = fetchByPhase { s with resetLine := s.resetLine.tail } := by
  unfold fetch
  rcases hl : s.resetLine with _ | ⟨b, rest⟩
  · cases s
    simp_all
  · cases b
    · rfl
    · exact absurd ⟨rest, hl⟩ h

theorem fetch_of_resetLine_nil {s : State} (h : s.resetLine = []) : fetch s = fetchByPhase s := by
  simp [fetch, h]

theorem step_of_run {s u : State} {i : Instr} (h : fetch s = .run i u) : step s = exec i u := by
  simp [step, h]

theorem step_of_advance {s u : State} (h : fetch s = .advance u) : step s = .next u := by
  simp [step, h]

theorem step_of_refuse {s : State} {r : Refusal} (h : fetch s = .refuse r) : step s = .refused r := by
  simp [step, h]

/-- A step under reset (R231). -/
theorem step_of_reset {s : State} {rest : List Bool} (h : s.resetLine = true :: rest) :
    step s = .next (takeReset { s with resetLine := rest }) := by
  simp [step, fetch, h]

/-- In BUSY, which operation or wire command is in progress: the operation OP names, or the wire command of its frame,
which is then the command that CMD and DATA spell. -/
theorem instrInProgress_cases {s : State} {i : Instr} (h : instrInProgress s = some i) :
    ∃ op, Operation.ofCode s.op = some op ∧
      ((sendingWireCommand op s = false ∧ i = operationInstr op s) ∨
        (sendingWireCommand op s = true ∧ decodeFrame (commandFrame s.cmd s.data) = .ok i)) := by
  unfold instrInProgress at h
  split at h
  · cases h
  · rename_i op hop
    refine ⟨op, hop, ?_⟩
    split at h
    · rename_i hs
      refine .inr ⟨hs, ?_⟩
      rcases hd : decodeFrame (commandFrame s.cmd s.data) with e | j
      · rw [hd] at h
        cases h
      · rw [hd] at h
        cases h
        rfl
    · rename_i hs
      cases h
      exact .inl ⟨by simpa using hs, rfl⟩

theorem instrInProgress_operation {u : State} {op : Operation} (ho : Operation.ofCode u.op = some op)
    (hs : sendingWireCommand op u = false) : instrInProgress u = some (operationInstr op u) := by
  simp [instrInProgress, ho, hs]

theorem instrInProgress_wire {u : State} {op : Operation} {i : Instr} (ho : Operation.ofCode u.op = some op)
    (hs : sendingWireCommand op u = true) (hd : decodeFrame (commandFrame u.cmd u.data) = .ok i) :
    instrInProgress u = some i := by
  simp [instrInProgress, ho, hs, hd, Except.toOption]

theorem ofCode_code (op : Operation) : Operation.ofCode op.code = some op := by
  cases op <;> rfl

theorem ofCode_eq_some {c : BitVec 4} {op : Operation} (h : Operation.ofCode c = some op) : c = op.code := by
  revert op c
  decide

theorem fetchByPhase_idle {u : State} (h : u.phase = .idle) : fetchByPhase u = fetchRequest u := by
  simp [fetchByPhase, h]

theorem fetchByPhase_busy {u : State} (h : u.phase = .busy) : fetchByPhase u = fetchBusy u := by
  simp [fetchByPhase, h]

theorem fetchRequest_nil {u : State} (h : u.requests = []) : fetchRequest u = .advance u := by
  simp [fetchRequest, h]

theorem fetchRequest_ok {u : State} {r : Request} {later : List Request} {i : Instr} (h : u.requests = r :: later)
    (hd : decodeRequest r = .ok i) : fetchRequest u = .run i { u with requests := later } := by
  simp [fetchRequest, h, hd]

theorem fetchRequest_error {u : State} {r : Request} {later : List Request} {e : Reject}
    (h : u.requests = r :: later) (hd : decodeRequest r = .error e) : fetchRequest u = .refuse (refusalOf e) := by
  simp [fetchRequest, h, hd]

theorem fetchBusy_pending {u : State} (h : u.pending ≠ none) : fetchBusy u = .advance u := by
  simp [fetchBusy, Option.isSome_iff_ne_none.2 h]

theorem fetchBusy_run {u : State} {i : Instr} (h : u.pending = none) (hi : instrInProgress u = some i) :
    fetchBusy u = .run i u := by
  simp [fetchBusy, h, hi]

theorem fetchBusy_none {u : State} (h : u.pending = none) (hi : instrInProgress u = none) :
    fetchBusy u = .fault .sequencer := by
  simp [fetchBusy, h, hi]

/-- Everything a step that answers a next state can have done, where no reset is due; `s'` is the state with the reset
input one sample on: nothing (IDLE with no request, or a call outstanding), an acceptance, or a step of the
instruction in progress. -/
theorem step_cases {s t : State} (hr : ¬ ResetDue s) (h : step s = .next t) :
    ∃ s', s' = { s with resetLine := s.resetLine.tail } ∧
      ((t = s' ∧ ((s.phase = .idle ∧ s.requests = []) ∨ (s.phase = .busy ∧ s.pending ≠ none))) ∨
        (∃ r later i, s.phase = .idle ∧ s.requests = r :: later ∧ decodeRequest r = .ok i ∧
          acceptPart i { s' with requests := later } = some t) ∨
        (∃ i, s.phase = .busy ∧ s.pending = none ∧ instrInProgress s' = some i ∧ exec i s' = .next t)) := by
  unfold step at h
  rw [fetch_of_not_resetDue hr] at h
  generalize hu : ({ s with resetLine := s.resetLine.tail } : State) = u at h
  have hphase : u.phase = s.phase := by rw [← hu]
  have hreq : u.requests = s.requests := by rw [← hu]
  have hpend : u.pending = s.pending := by rw [← hu]
  refine ⟨u, rfl, ?_⟩
  rw [← hphase, ← hreq, ← hpend]
  by_cases hp : u.phase = .idle
  · rw [fetchByPhase_idle hp] at h
    rcases hq : u.requests with _ | ⟨r, later⟩
    · rw [fetchRequest_nil hq] at h
      cases h
      exact .inl ⟨rfl, .inl ⟨hp, rfl⟩⟩
    · rcases hd : decodeRequest r with e | i
      · rw [fetchRequest_error hq hd] at h
        cases h
      · rw [fetchRequest_ok hq hd] at h
        exact .inr (.inl ⟨r, later, i, hp, rfl, hd, exec_idle_cases (s := { u with requests := later }) hp h⟩)
  · have hp : u.phase = .busy := by
      cases hq : u.phase with
      | idle => exact absurd hq hp
      | busy => rfl
    rw [fetchByPhase_busy hp] at h
    by_cases hn : u.pending = none
    · rcases hi : instrInProgress u with _ | i
      · rw [fetchBusy_none hn hi] at h
        cases h
      · rw [fetchBusy_run hn hi] at h
        exact .inr (.inr ⟨i, hp, hn, rfl, h⟩)
    · rw [fetchBusy_pending hn] at h
      cases h
      exact .inl ⟨rfl, .inr ⟨hp, hn⟩⟩

/-! Runs. -/

@[simp] theorem runSteps_zero (s : State) : runSteps 0 s = .next s := rfl

theorem runSteps_succ {s t : State} (k : Nat) (h : step s = .next t) : runSteps (k + 1) s = runSteps k t := by
  have hc : Sys2Proof.core.step s = .next t := h
  simp only [runSteps, Host.Core.run, hc]
  rfl

/-- A run of `j` steps and then of `k` steps is a run of `j + k` steps. -/
theorem runSteps_add {s t : State} {j : Nat} (k : Nat) (h : runSteps j s = .next t) :
    runSteps (j + k) s = runSteps k t := by
  induction j generalizing s with
  | zero =>
    simp only [runSteps_zero, Host.Outcome.next.injEq] at h
    rw [Nat.zero_add, h]
  | succ j ih =>
    rcases hs : step s with u | f | r
    · rw [runSteps_succ j hs] at h
      rw [Nat.succ_add, runSteps_succ (j + k) hs, ih h]
    · have hc : Sys2Proof.core.step s = .fault f := hs
      simp [runSteps, Host.Core.run, hc] at h
    · have hc : Sys2Proof.core.step s = .refused r := hs
      simp [runSteps, Host.Core.run, hc] at h

end Sys2Proof.Machine
end

