-- ==== Sys2Proof/Tests/Slice0.lean ====
section
/-! SUPPORT. Tests of single steps on values of spec/95_test_vectors.md, decodings of words written out from the spec's
encodings, and, for each statement with hypotheses, states and operands that meet them. -/

namespace Sys2Proof.Tests

open Sys2Proof Sys2Proof.Machine

/-! ## Small states -/

/-- The block in IDLE with requests offered and a transport attached. -/
def idleWith (requests : List Request) (tx : List TxAnswer) (rx : List RxAnswer) : State :=
  { State.reset with requests := requests, txAnswers := tx, rxAnswers := rx }

/-- An operation in progress at an index. -/
def busyAt (op : Operation) (step : SubOp) (idx : Byte) : State :=
  { State.reset with phase := .busy, op := op.code, step := step, idx := idx }

/-- ENC(cmd, data) in progress at an index, as R101 leaves it there. -/
def sendingAt (op : Operation) (cmd : Byte) (data : Half) (idx : Byte) (tx : List TxAnswer) : State :=
  { busyAt op .enc idx with
    cmd := cmd, data := data, mode := data.extractLsb' 0 1, sum := coveredSum cmd data idx.toNat, txAnswers := tx }

/-- A PAYLOAD array that begins with two bytes. -/
def echo (c m : Byte) : Vector Byte Config.maxPayload := ((Vector.replicate 26 0).set 0 c).set 1 m

/-- A field of the next state, where there is one. -/
def nextField {α : Type} (field : State → α) : Result3 → Option α
  | .next s => some (field s)
  | .fault _ => none
  | .refused _ => none

/-- The refusal, where there is one. -/
def refusalIn : Result3 → Option Refusal
  | .next _ => none
  | .fault _ => none
  | .refused r => some r

/-- The measurement payload of L1-5. -/
def spreadPayload : Operand :=
  #v[0x00, 0x0A, 0x00, 0x14, 0x00, 0x1E, 0x00, 0x0A, 0x00, 0x14, 0x00, 0x1E, 0x00, 0x01, 0x00, 0x02, 0x00, 0x03,
    0x00, 0x04, 0x00, 0x05, 0x00, 0x06, 0x00, 0x00]

/-! ## Well-formedness: an ill-formed term for each check, and the values at its edge -/

theorem test_wf_decode_27_refused : (Instr.decode 27).wf = false := by decide
theorem test_wf_decode_26_admitted : (Instr.decode 26).wf = true := by decide
theorem test_wf_wireChangeMode_2_refused : (Instr.wireChangeMode 2).wf = false := by decide
theorem test_wf_wireChangeMode_1_admitted : (Instr.wireChangeMode 1).wf = true := by decide
theorem test_wf_wireSleepSet_0x0100_refused : (Instr.wireSleepSet 0x0100).wf = false := by decide
theorem test_wf_wireSleepSet_0_admitted : (Instr.wireSleepSet 0).wf = true := by decide

/-! ## Decoding, every constructor: words of R79, R80 and R90, frames of D-ENC-1 to D-ENC-5 -/

/-- D-REQ-8: OP 0x1, bits 27 to 24 zero, CMD 0xE1, DATA 0x0001. -/
theorem test_decode_encode : decodeTableWord 32 0x10E10001 = some (.encode 0xE1 0x0001) := by rfl

/-- D-REQ-9. -/
theorem test_decode_decode : decodeTableWord 32 0x2000001A = some (.decode 26) := by rfl

/-- R90: 0x30000000, with byte 0 of the operand after the word. -/
theorem test_decode_extract :
    decodeTableWord 240 0x1230000000 = some (.extract ((Vector.replicate 26 0).set 0 0x12)) := by rfl

/-- R90: MODE 1 is Active. -/
theorem test_decode_setDataMode : decodeTableWord 32 0x40000001 = some (.setDataMode 1) := by rfl

/-- R90. -/
theorem test_decode_getPassive : decodeTableWord 32 0x50000000 = some .getPassive := by rfl

/-- R90. -/
theorem test_decode_getActive : decodeTableWord 32 0x60000000 = some .getActive := by rfl

/-- R90: MODE 0 is Sleep. -/
theorem test_decode_sleepSet : decodeTableWord 32 0x70000000 = some (.sleepSet 0) := by rfl

/-- The frame of D-ENC-2. -/
theorem test_decode_wireChangeMode : decodeTableWord 56 0x424DE100010171 = some (.wireChangeMode 1) := by rfl

/-- The frame of D-ENC-3. -/
theorem test_decode_wireReadPassive : decodeTableWord 56 0x424DE200000171 = some .wireReadPassive := by rfl

/-- The frame of D-ENC-5. -/
theorem test_decode_wireSleepSet : decodeTableWord 56 0x424DE400010174 = some (.wireSleepSet 1) := by rfl

/-- The 24-bit rows of R76, operand bytes zero. -/
theorem test_decode_wire_rows :
    decodeTableWord 24 0x424DE1 = some (.wireChangeMode 0) ∧ decodeTableWord 24 0x424DE2 = some .wireReadPassive ∧
      decodeTableWord 24 0x424DE4 = some (.wireSleepSet 0) := by decide

/-- D-REQ-1 to D-REQ-7 and D-DEC-21: refused, each for its reason. -/
theorem test_decode_refusals :
    (([0x00000000, 0x80000000, 0xFFFFFFFF, 0x11E20000, 0x20000102, 0x30000001, 0x40000002, 0x60000001,
        0x2000001B] : List Word).map fun w => decodeRequest { word := w }) =
      [.error .reservedOpcode, .error .reservedOpcode, .error .reservedOpcode, .error .reservedBits,
        .error .reservedBits, .error .reservedBits, .error .reservedBits, .error .reservedBits,
        .error .payloadTooLong] := by rfl

/-! ## Encoding -/

/-- D-ENC-7, D-ENC-8, D-ENC-9. -/
theorem test_command_frames :
    commandFrame 0xFF 0xFFFF = [0x42, 0x4D, 0xFF, 0xFF, 0xFF, 0x03, 0x8C] ∧
      commandFrame 0xE1 0x1234 = [0x42, 0x4D, 0xE1, 0x12, 0x34, 0x01, 0xB6] ∧
      commandFrame 0x00 0xFFFF = [0x42, 0x4D, 0x00, 0xFF, 0xFF, 0x02, 0x8D] := by decide

/-- R88, R89, R90: lines of text. -/
theorem test_assemble :
    assemble "ENCODE 0xE1, 0x0001" = some (.encode 0xE1 1) ∧ assemble "DECODE 27" = none ∧
      assemble "SLEEP_SET WAKEUP" = some (.sleepSet 1) ∧ assemble "SEND_READ" = some (.encode 0xE2 0) := by decide

/-! ## Single steps -/

/-- D-ENC-7: the last byte of the frame with the largest sum is 0x8C. -/
theorem test_encode_last_byte :
    nextField (·.trace) (exec (.encode 0xFF 0xFFFF) (sendingAt .encode 0xFF 0xFFFF 6 [.ok])) =
      some [.write 0x8C .ok] := by decide

/-- D-ENC-12: index 3 fails. -/
theorem test_encode_failed_write :
    nextField (fun t => (t.status, t.trace, t.phase))
        (exec (.encode 0xE1 1) (sendingAt .encode 0xE1 1 3 [.fail])) =
      some (1, [.write 0x00 .fail], .idle) := by decide

/-- D-DEC-9: the length field 0x001D where 0x001C is expected. -/
theorem test_decode_wrong_length :
    nextField (fun t => (t.status, t.len))
        (exec (.decode 26) { busyAt .decode .dec 3 with rxAnswers := [.byte 0x1D] }) = some (4, 0x001D) := by decide

/-- D-DEC-10: RXCHK 0x0139 against SUM 0x0138. -/
theorem test_decode_wrong_checksum :
    nextField (fun t => (t.status, t.rxchk, t.resultValid))
        (exec (.decode 26) { busyAt .decode .dec 31 with sum := 0x0138, rxchk := 0x0100, rxAnswers := [.byte 0x39] }) =
      some (5, 0x0139, false) := by decide

/-- D-EXT-2: big-endian, not 0x3412. -/
theorem test_extract_big_endian :
    nextField (fun t => (t.meas[0], t.meas[1]))
        (exec (.extract (((Vector.replicate 26 0).set 0 0x12).set 1 0x34)) (busyAt .extract .ext 0)) =
      some (0x1234, 0) := by decide

/-- L1-5. -/
theorem test_extract_measurement :
    nextField (fun t => (t.meas.toList, t.status, t.resultValid))
        (exec (.extract spreadPayload) (busyAt .extract .ext 0)) =
      some ([10, 20, 30, 10, 20, 30, 1, 2, 3, 4, 5, 6], 0, true) := by decide

/-- D-OP-1: the echo E1 01 is accepted. -/
theorem test_setDataMode_echo :
    nextField (·.responses) (exec (.setDataMode 1) { busyAt .setDataMode .ver 8 with payload := echo 0xE1 1 }) =
      some [{ status := 0, result := .empty }] := by decide

/-- D-OP-2: the echo E1 00 is not. -/
theorem test_setDataMode_wrong_echo :
    nextField (·.responses) (exec (.setDataMode 1) { busyAt .setDataMode .ver 8 with payload := echo 0xE1 0 }) =
      some [{ status := 6, result := .absent }] := by decide

/-- D-OP-12: acceptance loads the command `E2 0000` (R171). -/
theorem test_getPassive_acceptance :
    nextField (fun t => (t.phase, t.op, t.cmd, t.data)) (exec .getPassive (idleWith [] [] [])) =
      some (.busy, 5, 0xE2, 0) := by decide

/-- D-OP-12: EXT of the payload of L1-5. -/
theorem test_getPassive_extracts :
    nextField (fun t => t.meas.toList) (exec .getPassive { busyAt .getPassive .ext 32 with payload := spreadPayload }) =
      some [10, 20, 30, 10, 20, 30, 1, 2, 3, 4, 5, 6] := by decide

/-- D-OP-15: the first read fails. -/
theorem test_getActive_failed_read :
    nextField (fun t => (t.status, t.trace)) (exec .getActive { busyAt .getActive .dec 0 with rxAnswers := [.fail] }) =
      some (2, [.read .fail]) := by decide

/-- D-OP-16: SUM 0x0139 against RXCHK 0x0138. -/
theorem test_getActive_wrong_checksum :
    nextField (·.status)
        (exec .getActive { busyAt .getActive .dec 31 with sum := 0x0139, rxchk := 0x0100, rxAnswers := [.byte 0x38] }) =
      some 5 := by decide

/-- D-OP-9: Wakeup ends after its writes, with no read where every read would fail. -/
theorem test_sleepSet_wakeup_reads_nothing :
    nextField (fun t => (t.status, t.rxAnswers, t.trace))
        (exec (.sleepSet 1) { busyAt .sleepSet .enc 7 with rxAnswers := [.fail] }) =
      some (0, [.fail], []) := by decide

/-- D-OP-11: the echo E1 00 to a Sleep command. -/
theorem test_sleepSet_wrong_echo :
    nextField (·.status) (exec (.sleepSet 0) { busyAt .sleepSet .ver 8 with payload := echo 0xE1 0 }) = some 6 := by
  decide

/-- D-OP-6: the command byte fails. -/
theorem test_wireChangeMode_failed_write :
    nextField (fun t => (t.status, t.trace)) (exec (.wireChangeMode 0) (sendingAt .setDataMode 0xE1 0 2 [.fail])) =
      some (1, [.write 0xE1 .fail]) := by decide

/-- D-OP-1: the last byte 0x71, then DEC(2). -/
theorem test_wireChangeMode_last_byte :
    nextField (fun t => (t.trace, t.step, t.explen, t.idx))
        (exec (.wireChangeMode 1) (sendingAt .setDataMode 0xE1 1 6 [.ok])) =
      some ([.write 0x71 .ok], .dec, 2, 0) := by decide

/-- D-OP-12: the last byte 0x71, then DEC(26). -/
theorem test_wireReadPassive_last_byte :
    nextField (fun t => (t.trace, t.step, t.explen, t.idx))
        (exec .wireReadPassive (sendingAt .getPassive 0xE2 0 6 [.ok])) =
      some ([.write 0x71 .ok], .dec, 26, 0) := by decide

/-- D-OP-8: the last byte 0x73 of Sleep, then DEC(2). -/
theorem test_wireSleepSet_sleep_last_byte :
    nextField (fun t => (t.trace, t.step, t.idx)) (exec (.wireSleepSet 0) (sendingAt .sleepSet 0xE4 0 6 [.ok])) =
      some ([.write 0x73 .ok], .dec, 0) := by decide

/-- D-OP-9: the last byte 0x74 of Wakeup, and no DEC. -/
theorem test_wireSleepSet_wakeup_last_byte :
    nextField (fun t => (t.trace, t.step, t.idx)) (exec (.wireSleepSet 1) (sendingAt .sleepSet 0xE4 1 6 [.ok])) =
      some ([.write 0x74 .ok], .enc, 7) := by decide

/-- Each table row runs as the first instruction after reset. -/
theorem test_fetch_after_reset :
    nextField (·.op) (step (State.reset.withFetchWord 32 0x50000000)) = some 5 ∧
      nextField (·.pending) (step (State.reset.withFetchWord 24 0x424DE4)) = some (some (.write 0x42)) := by decide

/-- R231: a reset in BUSY. -/
theorem test_reset_in_busy :
    nextField (fun t => (t.phase, t.status, t.responses))
        (step { busyAt .decode .dec 5 with status := 4, resetLine := [true] }) = some (.idle, 0, []) := by decide

/-! ## The hypotheses of the statements can be met -/

/-- A request at the head of the channel of an IDLE block. -/
theorem offered_idleWith (r : Request) (later : List Request) (tx : List TxAnswer) (rx : List RxAnswer) :
    Offered (idleWith (r :: later) tx rx) r later := ⟨rfl, rfl, rfl, rfl⟩

theorem notDue {s : State} (h : s.resetLine = []) : ¬ ResetDue s := by
  rintro ⟨rest, hr⟩
  rw [h] at hr
  cases hr

theorem test_witness_decodeEncodeRoundTrip :
    ([.encode 0xFF 0xFFFF, .decode 0, .decode 26, .extract spreadPayload, .setDataMode 1, .getPassive, .getActive,
      .sleepSet 1, .wireChangeMode 1, .wireReadPassive, .wireSleepSet 1] : List Instr).all Instr.wf = true := by decide

theorem test_witness_decodedRequestKeepsItsWord :
    decodeRequest { word := 0x30000000, opbuf := spreadPayload } = .ok (.extract spreadPayload) ∧
      opField 0x30000000 = 3 := ⟨rfl, rfl⟩

theorem test_witness_requestRowsSelectOperations :
    (⟨.decode, 0x20000000, 0xFFFFFF00⟩ : RequestRow) ∈ requestRows ∧
      (0x2000001A : Word) &&& 0xFFFFFF00 = 0x20000000 ∧ ((0x2000001A : Word).extractLsb' 0 8).toNat ≤ 26 ∧
      (0x10FFFFFF : Word) &&& 0xFF000000 = 0x10000000 ∧ (0x30000000 : Word) &&& 0xFFFFFFFF = 0x30000000 ∧
      (0x40000001 : Word) &&& 0xFFFFFFFE = 0x40000000 ∧ (0x50000000 : Word) &&& 0xFFFFFFFF = 0x50000000 ∧
      (0x60000000 : Word) &&& 0xFFFFFFFF = 0x60000000 ∧ (0x70000001 : Word) &&& 0xFFFFFFFE = 0x70000000 := by decide

/-- One word for each refusal, and the two DECODE words at the bound. -/
theorem test_witness_unspelledRequestsAreRefused :
    Offered (idleWith [{ word := 0x2000001B }] [] []) { word := 0x2000001B } [] ∧
      (0x0FFFFFFF : Word).extractLsb' 28 4 = 0 ∧ 8 ≤ ((0x80000000 : Word).extractLsb' 28 4).toNat ∧
      ((0x11000000 : Word).extractLsb' 28 4 = 1 ∧ (0x11000000 : Word).extractLsb' 24 4 ≠ 0) ∧
      ((0x20000100 : Word).extractLsb' 28 4 = 2 ∧ (0x20000100 : Word).extractLsb' 8 20 ≠ 0) ∧
      ((0x70000002 : Word).extractLsb' 28 4 = 7 ∧ (0x70000002 : Word).extractLsb' 1 27 ≠ 0) ∧
      ((0x60000001 : Word).extractLsb' 28 4 = 6 ∧ (0x60000001 : Word).extractLsb' 0 28 ≠ 0) ∧
      (0x2000001B : Word) = 0x20000000 + (27 : Byte).setWidth 32 ∧ 26 < (27 : Byte).toNat ∧
      (0x2000001A : Word) = 0x20000000 + (26 : Byte).setWidth 32 ∧ (26 : Byte).toNat ≤ 26 :=
  ⟨offered_idleWith _ _ _ _, by decide⟩

theorem test_witness_stepRunsTheOldestRequest :
    ∃ (s : State) (r : Request), s.phase = .idle ∧ ¬ ResetDue s ∧ s.requests = r :: [{ word := 0 }] ∧
      decodeRequest r = .ok .getActive :=
  ⟨idleWith [{ word := 0x60000000 }, { word := 0 }] [] [], { word := 0x60000000 }, rfl, notDue rfl, rfl, rfl⟩

theorem test_witness_stepRunsTheOperationInProgress :
    ∀ op : Operation, ∃ s u : State, s.phase = .busy ∧ s.pending = none ∧ ¬ ResetDue s ∧
      u = { s with resetLine := s.resetLine.tail } ∧ s.op = op.code ∧ (s.step ≠ .enc ∨ 7 ≤ s.idx.toNat) :=
  fun op => ⟨busyAt op .enc 7, _, rfl, rfl, notDue rfl, rfl, rfl, .inr (by decide : 7 ≤ (7 : Byte).toNat)⟩

/-- One state for each of the three clauses, at the first and the last index. -/
theorem test_witness_stepRunsTheWireCommandInProgress :
    (∃ s : State, s.phase = .busy ∧ s.pending = none ∧ ¬ ResetDue s ∧ s.step = .enc ∧ s.idx.toNat < 7 ∧
      s.op = 4 ∧ s.cmd = 0xE1 ∧ s.data = 1) ∧
    (∃ s : State, s.phase = .busy ∧ s.pending = none ∧ ¬ ResetDue s ∧ s.step = .enc ∧ s.idx.toNat < 7 ∧
      s.op = 5 ∧ s.cmd = 0xE2 ∧ s.data = 0) ∧
    (∃ s : State, s.phase = .busy ∧ s.pending = none ∧ ¬ ResetDue s ∧ s.step = .enc ∧ s.idx.toNat < 7 ∧
      s.op = 7 ∧ s.cmd = 0xE4 ∧ s.data = 0) :=
  ⟨⟨sendingAt .setDataMode 0xE1 1 6 [], rfl, rfl, notDue rfl, rfl, by decide, rfl, rfl, rfl⟩,
    ⟨sendingAt .getPassive 0xE2 0 0 [], rfl, rfl, notDue rfl, rfl, by decide, rfl, rfl, rfl⟩,
    ⟨sendingAt .sleepSet 0xE4 0 6 [], rfl, rfl, notDue rfl, rfl, by decide, rfl, rfl, rfl⟩⟩

/-- A BUSY state and an IDLE state, for the statements about one phase: RequestsAreHeldWhileBusy, EncodeAcceptance,
WireCommandIsNoRequest, ExtractAcceptance, CompoundAcceptance; in EXT also for ExtractCompletes. -/
theorem test_witness_phases :
    (busyAt .extract .ext 0).phase = .busy ∧ (busyAt .extract .ext 0).step = .ext ∧ (idleWith [] [] []).phase = .idle :=
  ⟨rfl, rfl, rfl⟩

theorem test_witness_idleMakesNoTransportCall :
    ∃ s t : State, s.phase = .idle ∧ ¬ ResetDue s ∧ step s = .next t :=
  ⟨idleWith [{ word := 0x60000000 }] [.ok] [.byte 0x42], _, rfl, notDue rfl, rfl⟩

/-- A step that reads, for AtMostOneTransportCallPerStep and StepWritesOnlyTheIndexedPayloadByte (IDX - 4 = 1). -/
theorem test_witness_atMostOneTransportCallPerStep :
    ∃ s t : State, ¬ ResetDue s ∧ step s = .next t ∧ s.phase = .busy ∧ s.step = .dec ∧ s.idx = 5 ∧
      t.payload[1] = 0xAB :=
  ⟨{ busyAt .decode .dec 5 with explen := 26, rxAnswers := [.byte 0xAB] }, _, notDue rfl, rfl, rfl, rfl, rfl, rfl⟩

theorem test_witness_stepWritesOnlyTheIndexedPayloadByte :
    ∃ s t : State, ¬ ResetDue s ∧ step s = .next t ∧ ¬ (s.phase = .busy ∧ s.step = .dec ∧ s.idx.toNat = 0 + 4) :=
  ⟨{ busyAt .decode .dec 5 with explen := 26, rxAnswers := [.byte 0xAB] }, _, notDue rfl, rfl, by decide⟩

/-- The first and the last index of a frame, with an accepted and with a failed write. -/
theorem test_witness_encoderStepTable :
    (∃ (s : State) (b : Byte), s.phase = .busy ∧ s.step = .enc ∧ s.idx.toNat = 6 ∧
      [0x42, 0x4D, 0xFF, (0xFFFF : Half).extractLsb' 8 8, (0xFFFF : Half).extractLsb' 0 8,
        (chkCmd 0xFF 0xFFFF).extractLsb' 8 8, (chkCmd 0xFF 0xFFFF).extractLsb' 0 8][6]? = some b ∧
      s.sum = coveredSum 0xFF 0xFFFF 6 ∧ s.txAnswers = .ok :: []) ∧
    (∃ (s : State) (b : Byte), s.phase = .busy ∧ s.step = .enc ∧ s.idx.toNat = 0 ∧
      [0x42, 0x4D, 0xFF, (0xFFFF : Half).extractLsb' 8 8, (0xFFFF : Half).extractLsb' 0 8,
        (chkCmd 0xFF 0xFFFF).extractLsb' 8 8, (chkCmd 0xFF 0xFFFF).extractLsb' 0 8][0]? = some b ∧
      s.sum = coveredSum 0xFF 0xFFFF 0 ∧ s.txAnswers = .fail :: []) :=
  ⟨⟨sendingAt .encode 0xFF 0xFFFF 6 [.ok], 0x8C, rfl, rfl, rfl, rfl, rfl, rfl⟩,
    ⟨sendingAt .encode 0xFF 0xFFFF 0 [.fail], 0x42, rfl, rfl, rfl, rfl, rfl, rfl⟩⟩

/-- The last index, for each of the three commands and both values of the sleep data, and an index below it. -/
theorem test_witness_wireCommandStepTable :
    ((sendingAt .setDataMode 0xE1 1 6 [.ok]).idx.toNat = 6 ∧ (commandFrame 0xE1 1)[6]? = some 0x71 ∧
      (sendingAt .setDataMode 0xE1 1 6 [.ok]).sum = coveredSum 0xE1 1 6) ∧
    ((sendingAt .getPassive 0xE2 0 6 [.ok]).phase = .busy ∧ (commandFrame 0xE2 0)[6]? = some 0x71) ∧
    ((sendingAt .sleepSet 0xE4 0 6 [.ok]).step = .enc ∧ (commandFrame 0xE4 0)[6]? = some 0x73) ∧
    ((sendingAt .sleepSet 0xE4 1 6 [.ok]).txAnswers = [.ok] ∧ (commandFrame 0xE4 1)[6]? = some 0x74) ∧
    ((sendingAt .sleepSet 0xE4 1 5 [.fail]).txAnswers = [.fail] ∧ (commandFrame 0xE4 1)[5]? = some 0x01 ∧
      (sendingAt .sleepSet 0xE4 1 5 [.fail]).sum = coveredSum 0xE4 1 5) := by decide

theorem test_witness_compoundEncPartIsItsWireCommand :
    ∃ s : State, s.phase = .busy ∧ s.step = .enc ∧ s.idx.toNat < 7 :=
  ⟨sendingAt .getPassive 0xE2 0 6 [], rfl, rfl, by decide⟩

/-- For EncodeCompletes and WakeupCompletesAfterItsWrites. -/
theorem test_witness_encodeCompletes : ∃ s : State, s.phase = .busy ∧ s.step = .enc ∧ s.idx = 7 :=
  ⟨busyAt .encode .enc 7, rfl, rfl, rfl⟩

theorem test_witness_encodeRunsToCompletion :
    ∃ (s : State) (r : Request), Offered s r [] ∧ decodeRequest r = .ok (.encode 0xE1 1) ∧
      s.txAnswers = List.replicate 7 .ok ++ [] :=
  ⟨idleWith [{ word := 0x10E10001 }] (List.replicate 7 .ok) [], _, offered_idleWith _ _ _ _, rfl, rfl⟩

/-- The first and the last index, for an ENCODE and for a compound operation. -/
theorem test_witness_failedWriteEndsTheOperation :
    (∃ (s : State) (r : Request), Offered s r [] ∧ decodeRequest r = .ok (.encode 0xE1 1) ∧
      sentCommand (.encode 0xE1 1) = some (0xE1, 1) ∧ (commandFrame 0xE1 1)[6]? = some 0x71 ∧
      s.txAnswers = List.replicate 6 .ok ++ .fail :: []) ∧
    (∃ (s : State) (r : Request), Offered s r [] ∧ decodeRequest r = .ok (.sleepSet 1) ∧
      sentCommand (.sleepSet 1) = some (0xE4, 1) ∧ (commandFrame 0xE4 1)[0]? = some 0x42 ∧
      s.txAnswers = List.replicate 0 .ok ++ .fail :: []) :=
  ⟨⟨idleWith [{ word := 0x10E10001 }] [.ok, .ok, .ok, .ok, .ok, .ok, .fail] [], _, offered_idleWith _ _ _ _, rfl, rfl,
      rfl, rfl⟩,
    ⟨idleWith [{ word := 0x70000001 }] [.fail] [], _, offered_idleWith _ _ _ _, rfl, rfl, rfl, rfl⟩⟩

theorem test_witness_unansweredWriteBlocksTheOperation :
    ∃ (s : State) (r : Request), Offered s r [] ∧ decodeRequest r = .ok .getPassive ∧
      sentCommand .getPassive = some (0xE2, 0) ∧ (commandFrame 0xE2 0)[1]? = some 0x4D ∧
      s.txAnswers = List.replicate 1 .ok ++ .never :: [] :=
  ⟨idleWith [{ word := 0x50000000 }] [.ok, .never] [], _, offered_idleWith _ _ _ _, rfl, rfl, rfl, rfl⟩

/-- An earlier read and an earlier failure go before the frame. -/
theorem test_witness_wireAfterFailedWrite :
    ∃ s : State, s.trace = [.read .fail, .write 0x42 .fail] ++ writesOk [0x42] ++ [.write 0x4D .fail] ∧
      s.pending = none :=
  ⟨{ State.reset with trace := [.read .fail, .write 0x42 .fail, .write 0x42 .ok, .write 0x4D .fail] }, rfl, rfl⟩

/-- Both clauses at the bound. -/
theorem test_witness_decodeAcceptance :
    (idleWith [] [] []).phase = .idle ∧ (26 : Byte).toNat ≤ 26 ∧ 26 < (27 : Byte).toNat := by decide

/-- A read state at each of the eight clauses, for payload lengths 0, 2 and 26. -/
theorem test_witness_decoderStepTable :
    (∀ k : Byte, k.toNat < 32 → ∃ (s u v : State) (b : Byte), s.phase = .busy ∧ s.step = .dec ∧ (26 : Byte).toNat ≤ 26 ∧
      u = { s with rxAnswers := [], trace := s.trace ++ [.read (.byte b)], idx := s.idx + 1 } ∧
      v = { u with sum := s.sum + b.setWidth 16 } ∧ s.rxAnswers = .byte b :: [] ∧ s.idx.toNat = k.toNat) ∧
    (∃ s : State, s.phase = .busy ∧ s.step = .dec ∧ s.idx.toNat = 4 + (0 : Byte).toNat ∧ (0 : Byte).toNat ≤ 26 ∧
      s.rxAnswers = .byte 0 :: []) ∧
    (∃ s : State, s.phase = .busy ∧ s.step = .dec ∧ s.rxAnswers = .fail :: [] ∧
      s.idx.toNat < (2 : Byte).toNat + 6) :=
  ⟨fun k _ => ⟨{ busyAt .decode .dec k with rxAnswers := [.byte 0x42] }, _, _, 0x42, rfl, rfl, by decide, rfl, rfl, rfl,
      rfl⟩,
    ⟨{ busyAt .decode .dec 4 with rxAnswers := [.byte 0] }, rfl, rfl, rfl, by decide, rfl⟩,
    ⟨{ busyAt .decode .dec 7 with rxAnswers := [.fail] }, rfl, rfl, rfl, by decide⟩⟩

/-- The last index of each length. -/
theorem test_witness_compoundDecPartIsDecode :
    ∃ s t : State, s.phase = .busy ∧ s.step = .dec ∧ s.idx.toNat < 8 ∧ t.phase = .busy ∧ t.step = .dec ∧
      t.idx.toNat < 32 :=
  ⟨busyAt .setDataMode .dec 7, busyAt .getActive .dec 31, rfl, rfl, by decide, rfl, rfl, by decide⟩

theorem test_witness_decodeCompletes :
    ∃ s : State, s.phase = .busy ∧ s.step = .dec ∧ (26 : Byte).toNat ≤ 26 ∧ s.idx.toNat = (26 : Byte).toNat + 6 :=
  ⟨busyAt .decode .dec 32, rfl, rfl, by decide, rfl⟩

/-- The frame of D-DEC-1, with what follows each statement about a run of DECODE. -/
theorem test_witness_decodeReturnsThePayload :
    ∃ (s : State) (r : Request), Offered s r [] ∧ decodeRequest r = .ok (.decode 2) ∧
      ([0xE1, 0x01] : List Byte).length = (2 : Byte).toNat ∧
      s.rxAnswers = deliver (receivedFrame [0xE1, 0x01]) ++ [] :=
  ⟨idleWith [{ word := 0x20000002 }] [] (deliver [0x42, 0x4D, 0x00, 0x04, 0xE1, 0x01, 0x01, 0x75]), _,
    offered_idleWith _ _ _ _, rfl, rfl, rfl⟩

/-- The shortest payload. -/
theorem test_witness_decodeReturnsThePayload_empty :
    ∃ (s : State) (r : Request), Offered s r [] ∧ decodeRequest r = .ok (.decode 0) ∧
      s.rxAnswers = deliver (receivedFrame []) ++ [] :=
  ⟨idleWith [{ word := 0x20000000 }] [] (deliver [0x42, 0x4D, 0x00, 0x02, 0x00, 0x91]), _, offered_idleWith _ _ _ _, rfl,
    rfl⟩

theorem test_witness_wrongChecksumIsReported :
    ∃ (s : State) (r : Request), Offered s r [] ∧ decodeRequest r = .ok (.decode 2) ∧
      ((0x01 : Byte) ++ (0x74 : Byte) : Half) ≠ sumBytes (frameHead [0xE1, 0x01]) ∧
      s.rxAnswers = deliver (frameHead [0xE1, 0x01] ++ [0x01, 0x74]) ++ [] :=
  ⟨idleWith [{ word := 0x20000002 }] [] (deliver [0x42, 0x4D, 0x00, 0x04, 0xE1, 0x01, 0x01, 0x74]), _,
    offered_idleWith _ _ _ _, rfl, by decide, rfl⟩

theorem test_witness_wrongLengthIsReported :
    ∃ (s : State) (r : Request), Offered s r [] ∧ decodeRequest r = .ok (.decode 26) ∧
      ((0x00 : Byte) ++ (0x1D : Byte) : Half).toNat ≠ (26 : Byte).toNat + 2 ∧
      s.rxAnswers = deliver [0x42, 0x4D, 0x00, 0x1D] ++ [] :=
  ⟨idleWith [{ word := 0x2000001A }] [] (deliver [0x42, 0x4D, 0x00, 0x1D]), _, offered_idleWith _ _ _ _, rfl, by decide,
    rfl⟩

theorem test_witness_wrongStartByteIsReported :
    (∃ (s : State) (r : Request), Offered s r [] ∧ decodeRequest r = .ok (.decode 26) ∧ (0x00 : Byte) ≠ 0x42 ∧
      s.rxAnswers = .byte 0x00 :: []) ∧
    (∃ (s : State) (r : Request), Offered s r [] ∧ decodeRequest r = .ok (.decode 26) ∧ (0x4E : Byte) ≠ 0x4D ∧
      s.rxAnswers = .byte 0x42 :: .byte 0x4E :: []) :=
  ⟨⟨idleWith [{ word := 0x2000001A }] [] [.byte 0x00], _, offered_idleWith _ _ _ _, rfl, by decide, rfl⟩,
    ⟨idleWith [{ word := 0x2000001A }] [] [.byte 0x42, .byte 0x4E], _, offered_idleWith _ _ _ _, rfl, by decide, rfl⟩⟩

/-- The two cases of R126 and the first index: D-DEC-16 (a wrong `len_hi` before index 3), the last index after a tampered
payload, and D-DEC-15. -/
theorem test_witness_failedReadEndsTheOperation :
    ∀ bytes ∈ ([[0x42, 0x4D, 0x01], [0x42, 0x4D, 0x00, 0x04, 0xE1, 0x81, 0x01], []] : List (List Byte)),
      ∃ (s : State) (r : Request), Offered s r [] ∧ decodeRequest r = .ok (.decode 2) ∧
        bytes.length < (2 : Byte).toNat + 6 ∧ NotYetRefused (2 : Byte).toNat bytes ∧
        s.rxAnswers = deliver bytes ++ .fail :: [] := by
  intro bytes h
  refine ⟨idleWith [{ word := 0x20000002 }] [] (deliver bytes ++ [.fail]), _, offered_idleWith _ _ _ _, rfl, ?_, ?_, rfl⟩ <;>
    (simp only [List.mem_cons, List.not_mem_nil, or_false] at h
     rcases h with rfl | rfl | rfl <;> simp [NotYetRefused])

/-- The last byte and the highest bit. -/
theorem test_witness_payloadBitFlipIsDetected :
    ∃ (s : State) (r : Request), Offered s r [] ∧ decodeRequest r = .ok (.decode 2) ∧
      ([0xE1, 0x01] : List Byte)[1]? = some 0x01 ∧ 7 < 8 ∧
      ([0xE1, 0x81] : List Byte) = [0xE1, 0x01].set 1 (0x01 ^^^ BitVec.twoPow 8 7) ∧
      s.rxAnswers = deliver (frameHead [0xE1, 0x81] ++ bytesOf (sumBytes (frameHead [0xE1, 0x01]))) ++ [] :=
  ⟨idleWith [{ word := 0x20000002 }] [] (deliver [0x42, 0x4D, 0x00, 0x04, 0xE1, 0x81, 0x01, 0x75]), _,
    offered_idleWith _ _ _ _, rfl, rfl, by decide, by decide, rfl⟩

theorem test_witness_sumKeepingChangeIsNotDetected :
    ∃ (s : State) (r : Request), Offered s r [] ∧ decodeRequest r = .ok (.decode 2) ∧
      sumBytes [0xE0, 0x02] = sumBytes [0xE1, 0x01] ∧
      s.rxAnswers = deliver (frameHead [0xE0, 0x02] ++ bytesOf (sumBytes (frameHead [0xE1, 0x01]))) ++ [] :=
  ⟨idleWith [{ word := 0x20000002 }] [] (deliver [0x42, 0x4D, 0x00, 0x04, 0xE0, 0x02, 0x01, 0x75]), _,
    offered_idleWith _ _ _ _, rfl, by decide, rfl⟩

theorem test_witness_reservedBytesHaveNoEffect :
    (∃ (s : State) (a b : Operand), s.phase = .busy ∧ (∀ i : Fin 24, a[i.val] = b[i.val]) ∧ a ≠ b) ∧
    (∃ s t : State, s.phase = .busy ∧ s.step = .ext ∧ exec .getActive s = .next t) :=
  ⟨⟨busyAt .extract .ext 0, spreadPayload, (spreadPayload.set 24 0xAB).set 25 0xCD, rfl, by decide, by decide⟩,
    ⟨busyAt .getActive .ext 32, _, rfl, rfl, rfl⟩⟩

theorem test_witness_extractRunsToCompletion :
    ∃ (s : State) (r : Request), Offered s r [] ∧ decodeRequest r = .ok (.extract spreadPayload) :=
  ⟨idleWith [{ word := 0x30000000, opbuf := spreadPayload }] [] [], _, offered_idleWith _ _ _ _, rfl⟩

/-- A matching and a wrong echo. -/
theorem test_witness_echoIsVerified :
    (∃ s : State, s.phase = .busy ∧ s.step = .ver ∧ s.payload[0] = 0xE1 ∧ s.payload[1] = 1) ∧
    (∃ s : State, s.phase = .busy ∧ s.step = .ver ∧ (s.payload[0] ≠ 0xE4 ∨ s.payload[1] ≠ 0)) :=
  ⟨⟨{ busyAt .setDataMode .ver 8 with payload := echo 0xE1 1 }, rfl, rfl, rfl, rfl⟩,
    ⟨{ busyAt .sleepSet .ver 8 with payload := echo 0xE1 0 }, rfl, rfl, by decide⟩⟩

theorem test_witness_getCompletesWithMeasurement :
    ∃ s : State, s.phase = .busy ∧ s.step = .ext := ⟨busyAt .getPassive .ext 32, rfl, rfl⟩

/-- D-OP-1 and D-OP-2. -/
theorem test_witness_setDataModeRun :
    (∃ (s : State) (r : Request), Offered s r [] ∧ decodeRequest r = .ok (.setDataMode 1) ∧
      s.txAnswers = List.replicate 7 .ok ++ [] ∧ s.rxAnswers = deliver (receivedFrame [0xE1, 0x01]) ++ [] ∧
      (0x01 : Byte) = (1 : BitVec 1).setWidth 8) ∧
    (∃ (s : State) (r : Request), Offered s r [] ∧ decodeRequest r = .ok (.setDataMode 1) ∧
      s.txAnswers = List.replicate 7 .ok ++ [] ∧ s.rxAnswers = deliver (receivedFrame [0xE1, 0x00]) ++ [] ∧
      (0x00 : Byte) ≠ (1 : BitVec 1).setWidth 8) :=
  ⟨⟨idleWith [{ word := 0x40000001 }] (List.replicate 7 .ok)
        (deliver [0x42, 0x4D, 0x00, 0x04, 0xE1, 0x01, 0x01, 0x75]), _, offered_idleWith _ _ _ _, rfl, rfl, rfl, rfl⟩,
    ⟨idleWith [{ word := 0x40000001 }] (List.replicate 7 .ok)
        (deliver [0x42, 0x4D, 0x00, 0x04, 0xE1, 0x00, 0x01, 0x74]), _, offered_idleWith _ _ _ _, rfl, rfl, rfl,
      by decide⟩⟩

/-- D-OP-12, for GetPassiveRun and GetPassiveEqualsSendReadThenGetActive. -/
theorem test_witness_getPassiveRun :
    ∃ (s : State) (r : Request), Offered s r [] ∧ decodeRequest r = .ok .getPassive ∧
      s.txAnswers = List.replicate 7 .ok ++ [] ∧ s.rxAnswers = deliver (receivedFrame spreadPayload.toList) ++ [] :=
  ⟨idleWith [{ word := 0x50000000 }] (List.replicate 7 .ok) (deliver (receivedFrame spreadPayload.toList)), _,
    offered_idleWith _ _ _ _, rfl, rfl, by simp [idleWith]⟩

/-- D-OP-14. -/
theorem test_witness_getActiveRun :
    ∃ (s : State) (r : Request), Offered s r [] ∧ decodeRequest r = .ok .getActive ∧
      s.rxAnswers = deliver (receivedFrame spreadPayload.toList) ++ [] :=
  ⟨idleWith [{ word := 0x60000000 }] [] (deliver (receivedFrame spreadPayload.toList)), _, offered_idleWith _ _ _ _, rfl,
    by simp [idleWith]⟩

/-- D-OP-8, D-OP-11 and D-OP-9. -/
theorem test_witness_sleepSetRun :
    (∃ (s : State) (r : Request), Offered s r [] ∧ decodeRequest r = .ok (.sleepSet 0) ∧
      s.txAnswers = List.replicate 7 .ok ++ [] ∧ s.rxAnswers = deliver (receivedFrame [0xE4, 0x00]) ++ []) ∧
    (∃ (s : State) (r : Request), Offered s r [] ∧ decodeRequest r = .ok (.sleepSet 0) ∧
      s.txAnswers = List.replicate 7 .ok ++ [] ∧ s.rxAnswers = deliver (receivedFrame [0xE1, 0x00]) ++ [] ∧
      (0xE1 : Byte) ≠ 0xE4) ∧
    (∃ (s : State) (r : Request), Offered s r [] ∧ decodeRequest r = .ok (.sleepSet 1) ∧
      s.txAnswers = List.replicate 7 .ok ++ []) :=
  ⟨⟨idleWith [{ word := 0x70000000 }] (List.replicate 7 .ok)
        (deliver [0x42, 0x4D, 0x00, 0x04, 0xE4, 0x00, 0x01, 0x77]), _, offered_idleWith _ _ _ _, rfl, rfl, rfl⟩,
    ⟨idleWith [{ word := 0x70000000 }] (List.replicate 7 .ok)
        (deliver [0x42, 0x4D, 0x00, 0x04, 0xE1, 0x00, 0x01, 0x74]), _, offered_idleWith _ _ _ _, rfl, rfl, rfl,
      by decide⟩,
    ⟨idleWith [{ word := 0x70000001 }] (List.replicate 7 .ok) [.fail], _, offered_idleWith _ _ _ _, rfl, rfl⟩⟩

/-- Any reads (here a wrong start byte), and the frame of a successful exchange. -/
theorem test_witness_getPassiveEqualsSendReadThenGetActive :
    (∃ s s₁ s₂ : State, s.phase = .idle ∧ s.resetLine = [] ∧ s.pending = none ∧
      s.txAnswers = List.replicate 7 .ok ++ [] ∧ s₁ = { s with requests := { word := 0x50000000 } :: [] } ∧
      s₂ = { s with requests := { word := 0x10E20000 } :: { word := 0x60000000 } :: [] } ∧
      s.rxAnswers = [.byte 0x00]) ∧
    (∃ s : State, s.phase = .idle ∧ s.resetLine = [] ∧ s.pending = none ∧ s.txAnswers = List.replicate 7 .ok ++ [] ∧
      s.rxAnswers = deliver (receivedFrame spreadPayload.toList) ++ []) :=
  ⟨⟨idleWith [] (List.replicate 7 .ok) [.byte 0x00], _, _, rfl, rfl, rfl, rfl, rfl, rfl, rfl⟩,
    ⟨idleWith [] (List.replicate 7 .ok) (deliver (receivedFrame spreadPayload.toList)), rfl, rfl, rfl, rfl,
      by simp [idleWith]⟩⟩

/-- A step that ends an operation, and one that does not. -/
theorem test_witness_oneResponseWhenAnOperationEnds :
    (∃ s t : State, ¬ ResetDue s ∧ step s = .next t ∧ s.phase = .busy ∧ t.phase = .idle) ∧
    (∃ s t : State, ¬ ResetDue s ∧ step s = .next t ∧ ¬ (s.phase = .busy ∧ t.phase = .idle)) :=
  ⟨⟨busyAt .extract .ext 0, _, notDue rfl, rfl, rfl, rfl⟩,
    ⟨idleWith [{ word := 0x50000000 }] [] [], _, notDue rfl, rfl, by decide⟩⟩

theorem test_witness_emptyDataIsNeverProduced :
    ∃ s t : State, s.status ≠ 7 ∧ (∀ r ∈ s.responses, r.status ≠ 7) ∧ step s = .next t :=
  ⟨{ busyAt .getActive .dec 0 with rxAnswers := [.fail] }, _, by decide, by decide, rfl⟩

/-- A write of ENCODE that never returns, a write of each wire command for which no answer is left, and a read. -/
theorem test_witness_unansweredCallIsLeftOutstanding :
    (∃ s : State, s.phase = .busy ∧ s.step = .enc ∧ (commandFrame 0xE1 1)[s.idx.toNat]? = some 0x71 ∧
      s.sum = coveredSum 0xE1 1 s.idx.toNat ∧ s.txAnswers = .never :: []) ∧
    (∀ c ∈ ([0xE1, 0xE2, 0xE4] : List Byte), ∃ s : State, s.phase = .busy ∧ s.step = .enc ∧
      (commandFrame c 0)[s.idx.toNat]? = some 0x42 ∧ s.sum = coveredSum c 0 s.idx.toNat ∧ s.txAnswers = []) ∧
    (∃ s : State, s.phase = .busy ∧ s.step = .dec ∧ s.idx.toNat < (2 : Byte).toNat + 6 ∧ s.rxAnswers = []) :=
  ⟨⟨sendingAt .encode 0xE1 1 6 [.never], rfl, rfl, rfl, rfl, rfl⟩,
    fun c _ => ⟨sendingAt .getPassive c 0 0 [], rfl, rfl, rfl, rfl, rfl⟩,
    ⟨busyAt .decode .dec 7, rfl, rfl, by decide, rfl⟩⟩

theorem test_witness_outstandingCallBlocksForEver :
    ∃ s : State, s.phase = .busy ∧ s.pending ≠ none ∧ s.resetLine = [] :=
  ⟨{ busyAt .decode .dec 0 with pending := some .read }, rfl, by decide, rfl⟩

/-- A reset with no call outstanding, with a write and with a read outstanding. -/
theorem test_witness_resetAbandonsTheOperation :
    (∃ s : State, s.resetLine = true :: [false] ∧ s.pending = none) ∧
    (∃ s : State, s.resetLine = true :: [] ∧ s.pending = some (.write 0x42)) ∧
    (∃ s : State, s.resetLine = true :: [] ∧ s.pending = some .read) :=
  ⟨⟨{ State.reset with resetLine := [true, false] }, rfl, rfl⟩,
    ⟨{ busyAt .encode .enc 0 with resetLine := [true], pending := some (.write 0x42) }, rfl, rfl⟩,
    ⟨{ busyAt .decode .dec 0 with resetLine := [true], pending := some .read }, rfl, rfl⟩⟩

/-- A BUSY state of a run, with a step from it; also for InvariantStatesDoNotFault. -/
theorem test_witness_everyStepKeepsTheInvariant :
    ∃ s t : State, MachineInv s ∧ s.phase = .busy ∧ step s = .next t :=
  ⟨sendingAt .getPassive 0xE2 0 6 [.ok], _,
    ⟨by decide, by decide, by decide, fun h => absurd rfl h, fun _ => .inl ⟨rfl, by decide, rfl, rfl, rfl⟩⟩, rfl, rfl⟩

/-- An acceptance that starts EXT; a read that ends DEC(26) with SUM = RXCHK and starts EXT; EXT, which ends. -/
theorem test_witness_subOperationsFollowInOrder :
    (∃ s t : State, MachineInv s ∧ ¬ ResetDue s ∧ step s = .next t ∧ t.op = Operation.extract.code ∧ s.phase = .idle ∧
      t.phase = .busy) ∧
    (∃ s t : State, MachineInv s ∧ ¬ ResetDue s ∧ step s = .next t ∧ t.op = Operation.getActive.code ∧ s.phase = .busy ∧
      s.step = .dec ∧ t.step = .ext ∧ t.phase = .busy) ∧
    (∃ s t : State, MachineInv s ∧ ¬ ResetDue s ∧ step s = .next t ∧ t.op = Operation.extract.code ∧ s.phase = .busy ∧
      t.phase = .idle ∧ t.status = 0) :=
  ⟨⟨idleWith [{ word := 0x30000000 }] [] [], _,
      ⟨by decide, by decide, by decide, fun h => absurd rfl h, nofun⟩, notDue rfl, rfl, rfl, rfl, rfl⟩,
    ⟨{ busyAt .getActive .dec 31 with explen := 26, len := 28, rxAnswers := [.byte 0] }, _,
      ⟨by decide, by decide, by decide, fun h => absurd rfl h,
        fun _ => .inl ⟨rfl, rfl, by decide, by decide, fun _ => rfl, by decide⟩⟩,
      notDue rfl, rfl, rfl, rfl, rfl, rfl, rfl⟩,
    ⟨busyAt .extract .ext 0, _, ⟨by decide, by decide, by decide, fun h => absurd rfl h, fun _ => rfl⟩, notDue rfl, rfl,
      rfl, rfl, rfl, rfl⟩⟩

/-- Two IDLE states whose registers, last error and past differ, and an operation within one step of the first. -/
theorem test_witness_noStateBetweenOperations :
    ∃ s t : State, s.phase = .idle ∧ t.phase = .idle ∧ SameInput s t ∧ true ∉ s.resetLine ∧ s.status ≠ t.status ∧
      s.trace ≠ t.trace ∧ OperationWithin 1 s :=
  ⟨idleWith [{ word := 0x60000000 }] [] [],
    { idleWith [{ word := 0x60000000 }] [] [] with status := 5, sum := 1, step := .ver, trace := [.read .fail] },
    rfl, rfl, ⟨rfl, rfl, rfl, rfl, rfl⟩, by decide, by decide, by decide, 1, _, Nat.le_refl 1, rfl, rfl⟩

/-- Two IDLE states that the host reads alike, with a reset ahead and traces of one length. -/
theorem test_witness_noStateBetweenOperations_reset :
    ∃ s t : State, s.phase = .idle ∧ t.phase = .idle ∧ SameInput s t ∧ s.trace.length = t.trace.length ∧ SameEnd s t ∧
      true ∈ s.resetLine ∧ s ≠ t :=
  ⟨{ idleWith [] [] [] with resetLine := [true] }, { idleWith [] [] [] with resetLine := [true], sum := 1 },
    rfl, rfl, ⟨rfl, rfl, rfl, rfl, rfl⟩, rfl, ⟨rfl, rfl, rfl⟩, by decide, by decide⟩

end Sys2Proof.Tests
end

/-! ## The transport in one step (spec/00_scope.md R13, spec/20_memory.md R53, R62)

A step either leaves the transport alone, or makes one write, or makes one read. Everything a step does besides
`txWrite` and `rxRead` (acceptance, the updates and checks, the change of sub-operation, the ending) is of the first
kind. -/

namespace Sys2Proof.Machine

/-- From `s` to `t` no transport call was made and no answer was used; what was outstanding still is. -/
structure SameTransport (s t : State) : Prop where
  trace : t.trace = s.trace
  txAnswers : t.txAnswers = s.txAnswers
  rxAnswers : t.rxAnswers = s.rxAnswers
  pending : t.pending = s.pending

/-- From `s` to `t` one write was made: it returned, or it is outstanding and the trace has no event of it yet. -/
structure OneWrite (s t : State) : Prop where
  trace : t.trace = s.trace ∨ ∃ b a, t.trace = s.trace ++ [.write b a]
  txAnswers : t.txAnswers = s.txAnswers.tail
  rxAnswers : t.rxAnswers = s.rxAnswers

/-- From `s` to `t` one read was made: it returned, or it is outstanding and the trace has no event of it yet. -/
structure OneRead (s t : State) : Prop where
  trace : t.trace = s.trace ∨ ∃ a, t.trace = s.trace ++ [.read a]
  txAnswers : t.txAnswers = s.txAnswers
  rxAnswers : t.rxAnswers = s.rxAnswers.tail

theorem SameTransport.refl (s : State) : SameTransport s s := ⟨rfl, rfl, rfl, rfl⟩

theorem SameTransport.trans {s t u : State} (hst : SameTransport s t) (htu : SameTransport t u) :
    SameTransport s u :=
  ⟨htu.trace.trans hst.trace, htu.txAnswers.trans hst.txAnswers, htu.rxAnswers.trans hst.rxAnswers,
    htu.pending.trans hst.pending⟩

theorem OneWrite.of_sameTransport_left {s t u : State} (hst : SameTransport s t) (htu : OneWrite t u) :
    OneWrite s u :=
  ⟨hst.trace ▸ htu.trace, hst.txAnswers ▸ htu.txAnswers, htu.rxAnswers.trans hst.rxAnswers⟩

theorem OneRead.of_sameTransport_left {s t u : State} (hst : SameTransport s t) (htu : OneRead t u) :
    OneRead s u :=
  ⟨hst.trace ▸ htu.trace, htu.txAnswers.trans hst.txAnswers, hst.rxAnswers ▸ htu.rxAnswers⟩

theorem OneWrite.of_sameTransport_right {s t u : State} (hst : OneWrite s t) (htu : SameTransport t u) :
    OneWrite s u :=
  ⟨htu.trace ▸ hst.trace, htu.txAnswers.trans hst.txAnswers, htu.rxAnswers.trans hst.rxAnswers⟩

theorem OneRead.of_sameTransport_right {s t u : State} (hst : OneRead s t) (htu : SameTransport t u) :
    OneRead s u :=
  ⟨htu.trace ▸ hst.trace, htu.txAnswers.trans hst.txAnswers, htu.rxAnswers.trans hst.rxAnswers⟩

/-! What leaves the transport alone. -/

theorem raise_sameTransport (kind : ErrorKind) (s : State) : SameTransport s (raise kind s) := ⟨rfl, rfl, rfl, rfl⟩

theorem complete_sameTransport (result : Result) (s : State) : SameTransport s (complete result s) :=
  ⟨rfl, rfl, rfl, rfl⟩

theorem extractAndComplete_sameTransport {n : Nat} (a : Vector Byte n) (h : 24 ≤ n) (s : State) :
    SameTransport s (extractAndComplete a h s) := ⟨rfl, rfl, rfl, rfl⟩

theorem verifyAndComplete_sameTransport (c m : Byte) (s : State) :
    SameTransport s (verifyAndComplete c m s) := by
  rcases verifyAndComplete_cases c m s with ⟨_, _, e⟩ | ⟨_, e⟩ <;> rw [e]
  · exact complete_sameTransport .empty s
  · exact raise_sameTransport .unexpectedResponse s

/-- Acceptance makes no transport call (R27, R84). -/
theorem acceptPart_sameTransport {i : Instr} {s t : State} (h : acceptPart i s = some t) : SameTransport s t := by
  cases i with
  | decode n =>
    simp only [acceptPart, Option.ite_none_right_eq_some] at h
    obtain ⟨_, ⟨⟩⟩ := h
    exact ⟨rfl, rfl, rfl, rfl⟩
  | _ =>
    cases h <;> exact ⟨rfl, rfl, rfl, rfl⟩

/-- What follows the last byte of a command frame starts a sub-operation at most. -/
theorem framePart_after_sameTransport {i : Instr} {c : Byte} {d : Half} {after : State → State}
    (h : framePart i = some (c, d, after)) (s : State) : SameTransport s (after s) := by
  have sleepSet (m : BitVec 1) : SameTransport s (afterSleepSetFrame m s) := by
    unfold afterSleepSetFrame
    split <;> exact ⟨rfl, rfl, rfl, rfl⟩
  cases i <;> cases h
  case sleepSet m => exact sleepSet m
  case wireSleepSet => exact sleepSet _
  all_goals exact ⟨rfl, rfl, rfl, rfl⟩

/-- What follows the last byte of an accepted frame starts a sub-operation at most. -/
theorem receivePart_after_sameTransport {i : Instr} {n : Nat} {after : State → State}
    (h : receivePart i = some (n, after)) (s : State) : SameTransport s (after s) := by
  cases i with
  | sleepSet m =>
    simp only [receivePart, Option.ite_none_right_eq_some] at h
    obtain ⟨_, ⟨⟩⟩ := h
    exact ⟨rfl, rfl, rfl, rfl⟩
  | _ =>
    cases h <;> exact ⟨rfl, rfl, rfl, rfl⟩

/-- The ending of an operation makes no transport call. -/
theorem finishPart_sameTransport {i : Instr} {s t : State} {sub : SubOp} (h : finishPart i s = some (sub, t)) :
    SameTransport s t := by
  cases i with
  | encode c d => cases h; exact complete_sameTransport _ s
  | decode n => cases h; exact complete_sameTransport _ s
  | extract a => cases h; exact extractAndComplete_sameTransport _ _ s
  | setDataMode m => cases h; exact verifyAndComplete_sameTransport _ _ s
  | getPassive => cases h; exact extractAndComplete_sameTransport _ _ s
  | getActive => cases h; exact extractAndComplete_sameTransport _ _ s
  | sleepSet m =>
    simp only [finishPart] at h
    split at h <;> cases h
    · exact verifyAndComplete_sameTransport _ _ s
    · exact complete_sameTransport _ s
  | wireChangeMode d => cases h
  | wireReadPassive => cases h
  | wireSleepSet d => cases h

/-- DEC's update and check for a byte it has read make no further call (R121). -/
theorem decodeField_sameTransport {n : Nat} {after : State → State} {field : FrameField} {b : Byte} {s t : State}
    (hafter : ∀ u, SameTransport u (after u)) (h : decodeField n after field b s = .next t) : SameTransport s t := by
  rcases decodeField_cases h with ⟨u, ht, hu⟩ | ⟨_, rfl⟩
  · have update : SameTransport s u := by
      rcases hu with rfl | ⟨_, rfl⟩ | ⟨_, _, _, rfl⟩ | ⟨_, rfl⟩ <;> exact ⟨rfl, rfl, rfl, rfl⟩
    rcases ht with rfl | ⟨kind, rfl⟩
    · exact update
    · exact update.trans (raise_sameTransport kind u)
  · have afterwards := hafter { s with rxchk := s.sum, idx := s.idx + 1, plen := BitVec.ofNat 8 n }
    exact ⟨afterwards.trace, afterwards.txAnswers, afterwards.rxAnswers, afterwards.pending⟩

/-! The two calls. -/

/-- A step of ENC makes one write, whatever its answer (R101). -/
theorem encStep_oneWrite {after : State → State} (hafter : ∀ u, SameTransport u (after u)) (c : Byte) (d : Half)
    (s : State) : OneWrite s (encStep c d after s) := by
  rcases encStep_cases c d after s with ⟨rest, u, htx, hu, e⟩ | ⟨rest, htx, e⟩ | e <;> rw [e]
  · have accepted : OneWrite s u := by
      rw [hu]
      exact ⟨.inr ⟨_, _, rfl⟩, by rw [htx]; rfl, rfl⟩
    split
    · exact accepted.of_sameTransport_right (hafter u)
    · exact accepted
  · exact ⟨.inr ⟨_, _, rfl⟩, by rw [htx]; rfl, rfl⟩
  · exact ⟨.inl rfl, rfl, rfl⟩

/-- A read whose byte is handled without a further call is one read, whatever its answer (R34). -/
theorem rxRead_oneRead {onByte : Byte → State → Result3} {s t : State}
    (honByte : ∀ b u, onByte b u = .next t → SameTransport u t) (h : rxRead onByte s = .next t) : OneRead s t := by
  rcases rxRead_cases onByte s with ⟨b, rest, hrx, e⟩ | ⟨rest, hrx, e⟩ | e <;> rw [e] at h
  · have delivered : OneRead s { s with rxAnswers := rest, trace := s.trace ++ [.read (.byte b)] } :=
      ⟨.inr ⟨_, rfl⟩, rfl, by rw [hrx]; rfl⟩
    exact delivered.of_sameTransport_right (honByte b _ h)
  · cases h
    exact ⟨.inr ⟨_, rfl⟩, rfl, by rw [hrx]; rfl⟩
  · cases h
    exact ⟨.inl rfl, rfl, rfl⟩

/-! The step. -/

/-- A step of the instruction in progress makes one write, or one read, or no call. -/
theorem exec_busy_transport {i : Instr} {s t : State} (hp : s.phase = .busy) (h : exec i s = .next t) :
    SameTransport s t ∨ OneWrite s t ∨ OneRead s t := by
  rcases exec_busy_cases hp h with ⟨c, d, after, hframe, _, _, rfl⟩ | ⟨n, after, field, hrecv, _, _, hread⟩ | hfin
  · exact .inr (.inl (encStep_oneWrite (framePart_after_sameTransport hframe) c d s))
  · exact .inr (.inr (rxRead_oneRead
      (fun _ _ => decodeField_sameTransport (receivePart_after_sameTransport hrecv)) hread))
  · exact .inl (finishPart_sameTransport hfin)

/-- A step with no reset due makes one write, or one read, or no call (R13). -/
theorem step_transport {s t : State} (hr : ¬ ResetDue s) (h : step s = .next t) :
    SameTransport s t ∨ OneWrite s t ∨ OneRead s t := by
  obtain ⟨s', hs', hcases⟩ := step_cases hr h
  have sampled : SameTransport s s' := by
    rw [hs']
    exact ⟨rfl, rfl, rfl, rfl⟩
  rcases hcases with ⟨rfl, _⟩ | ⟨_, later, _, _, _, _, haccept⟩ | ⟨i, hp, _, _, hexec⟩
  · exact .inl sampled
  · have taken : SameTransport s' { s' with requests := later } := ⟨rfl, rfl, rfl, rfl⟩
    exact .inl ((sampled.trans taken).trans (acceptPart_sameTransport haccept))
  · have hp' : s'.phase = .busy := by rw [hs']; exact hp
    rcases exec_busy_transport hp' hexec with untouched | write | read
    · exact .inl (sampled.trans untouched)
    · exact .inr (.inl (write.of_sameTransport_left sampled))
    · exact .inr (.inr (read.of_sameTransport_left sampled))

/-- Settles O12: the three kinds of step, each with its trace and its two streams. -/
theorem atMostOneTransportCallPerStep : Obligations.AtMostOneTransportCallPerStep := by
  intro s t hr h
  rcases step_transport hr h with untouched | write | read
  · exact ⟨.inl untouched.trace, .inl ⟨untouched.txAnswers, .inl untouched.rxAnswers⟩⟩
  · exact ⟨write.trace.imp_right fun ⟨_, _, e⟩ => ⟨_, e⟩, .inr ⟨write.rxAnswers, write.txAnswers⟩⟩
  · exact ⟨read.trace.imp_right fun ⟨_, e⟩ => ⟨_, e⟩, .inl ⟨read.txAnswers, .inr read.rxAnswers⟩⟩

end Sys2Proof.Machine

/-! ## What a step leaves alone in IDLE and in BUSY (spec/10_state.md R26, R27, R33, R38)

In BUSY a step keeps the operation in progress, or ends it by `raise` (R203), or ends it by the ending its rule fixes. -/

namespace Sys2Proof.Machine

/-- Settles O11: in IDLE a step waits or accepts, and neither makes a call. -/
theorem idleMakesNoTransportCall : Obligations.IdleMakesNoTransportCall := by
  intro s t hidle hr h
  obtain ⟨s', hs', hcases⟩ := step_cases hr h
  have sampled : SameTransport s s' := by
    rw [hs']
    exact ⟨rfl, rfl, rfl, rfl⟩
  have untouched : SameTransport s t := by
    rcases hcases with ⟨rfl, _⟩ | ⟨_, later, _, _, _, _, haccept⟩ | ⟨_, hbusy, _⟩
    · exact sampled
    · have taken : SameTransport s' { s' with requests := later } := ⟨rfl, rfl, rfl, rfl⟩
      exact (sampled.trans taken).trans (acceptPart_sameTransport haccept)
    · rw [hidle] at hbusy
      cases hbusy
  exact ⟨untouched.trace, untouched.txAnswers, untouched.rxAnswers, untouched.pending⟩

/-! The operation in progress is kept. -/

/-- From `s` to `t` the operation in progress stays in progress: PHASE, OP, the operands that no sub-operation loads,
STATUS, RESULT_VALID and what lies between block and host are as they were. -/
structure KeepsOperation (s t : State) : Prop where
  phase : t.phase = s.phase
  op : t.op = s.op
  cmd : t.cmd = s.cmd
  data : t.data = s.data
  mode : t.mode = s.mode
  opbuf : t.opbuf = s.opbuf
  status : t.status = s.status
  resultValid : t.resultValid = s.resultValid
  requests : t.requests = s.requests
  responses : t.responses = s.responses
  resetLine : t.resetLine = s.resetLine

theorem KeepsOperation.trans {s t u : State} (hst : KeepsOperation s t) (htu : KeepsOperation t u) :
    KeepsOperation s u where
  phase := htu.phase.trans hst.phase
  op := htu.op.trans hst.op
  cmd := htu.cmd.trans hst.cmd
  data := htu.data.trans hst.data
  mode := htu.mode.trans hst.mode
  opbuf := htu.opbuf.trans hst.opbuf
  status := htu.status.trans hst.status
  resultValid := htu.resultValid.trans hst.resultValid
  requests := htu.requests.trans hst.requests
  responses := htu.responses.trans hst.responses
  resetLine := htu.resetLine.trans hst.resetLine

theorem afterSleepSetFrame_wakeup : afterSleepSetFrame 1 = id := rfl

theorem afterSleepSetFrame_sleep : afterSleepSetFrame 0 = beginDec 2 := rfl

/-- A mode is Sleep or Wakeup (R24). -/
theorem mode_cases (m : BitVec 1) : m = 0 ∨ m = 1 := by
  revert m
  decide

/-- After the last byte of a command frame nothing follows, or DEC starts (R100, R170, R171, R173). -/
theorem framePart_after_cases {i : Instr} {c : Byte} {d : Half} {after : State → State}
    (h : framePart i = some (c, d, after)) : after = id ∨ ∃ n, after = beginDec n := by
  have sleepSet (m : BitVec 1) : afterSleepSetFrame m = id ∨ ∃ n, afterSleepSetFrame m = beginDec n := by
    rcases mode_cases m with rfl | rfl
    · exact .inr ⟨2, rfl⟩
    · exact .inl rfl
  cases i <;> cases h
  case encode => exact .inl rfl
  case sleepSet m => exact sleepSet m
  case wireSleepSet => exact sleepSet _
  case setDataMode => exact .inr ⟨2, rfl⟩
  case wireChangeMode => exact .inr ⟨2, rfl⟩
  case getPassive => exact .inr ⟨26, rfl⟩
  case wireReadPassive => exact .inr ⟨26, rfl⟩

/-- After the last byte of an accepted frame nothing follows, or VER or EXT starts (R120, R170 to R173). -/
theorem receivePart_after_cases {i : Instr} {n : Nat} {after : State → State}
    (h : receivePart i = some (n, after)) : after = id ∨ after = beginVer ∨ after = beginExt := by
  cases i with
  | sleepSet m =>
    simp only [receivePart, Option.ite_none_right_eq_some] at h
    obtain ⟨_, ⟨⟩⟩ := h
    exact .inr (.inl rfl)
  | _ => cases h <;> simp

theorem framePart_after_keeps {i : Instr} {c : Byte} {d : Half} {after : State → State}
    (h : framePart i = some (c, d, after)) (s : State) : KeepsOperation s (after s) := by
  rcases framePart_after_cases h with rfl | ⟨n, rfl⟩ <;> constructor <;> rfl

theorem receivePart_after_keeps {i : Instr} {n : Nat} {after : State → State}
    (h : receivePart i = some (n, after)) (s : State) : KeepsOperation s (after s) := by
  rcases receivePart_after_cases h with rfl | rfl | rfl <;> constructor <;> rfl

/-- From `s` to `t` the operation in progress is kept, or it has failed (R203). -/
def KeepsOrFails (s t : State) : Prop :=
  KeepsOperation s t ∨ ∃ kind u, KeepsOperation s u ∧ t = raise kind u

/-- A step of ENC keeps the operation or fails (R101, R103). -/
theorem encStep_keepsOrFails {after : State → State} (hafter : ∀ u, KeepsOperation u (after u)) (c : Byte) (d : Half)
    (s : State) : KeepsOrFails s (encStep c d after s) := by
  rcases encStep_cases c d after s with ⟨rest, u, _, hu, e⟩ | ⟨rest, _, e⟩ | e <;> rw [e]
  · have accepted : KeepsOperation s u := by
      rw [hu]
      constructor <;> rfl
    split
    · exact .inl (accepted.trans (hafter u))
    · exact .inl accepted
  · exact .inr ⟨_, _, by constructor <;> rfl, rfl⟩
  · exact .inl (by constructor <;> rfl)

/-- What DEC does with a byte keeps the operation or fails (R121). -/
theorem decodeField_keepsOrFails {n : Nat} {after : State → State} {field : FrameField} {b : Byte} {s t : State}
    (hafter : ∀ u, KeepsOperation u (after u)) (h : decodeField n after field b s = .next t) : KeepsOrFails s t := by
  rcases decodeField_cases h with ⟨u, ht, hu⟩ | ⟨_, rfl⟩
  · have update : KeepsOperation s u := by
      rcases hu with rfl | ⟨_, rfl⟩ | ⟨_, _, _, rfl⟩ | ⟨_, rfl⟩ <;> constructor <;> rfl
    rcases ht with rfl | ⟨kind, rfl⟩
    · exact .inl update
    · exact .inr ⟨kind, u, update, rfl⟩
  · have accepted : KeepsOperation s { s with rxchk := s.sum, idx := s.idx + 1, plen := BitVec.ofNat 8 n } := by
      constructor <;> rfl
    exact .inl (accepted.trans (hafter _))

/-- A read keeps the operation or fails, where the handling of its byte does (R34). -/
theorem rxRead_keepsOrFails {onByte : Byte → State → Result3} {s t : State}
    (honByte : ∀ b u, onByte b u = .next t → KeepsOrFails u t) (h : rxRead onByte s = .next t) : KeepsOrFails s t := by
  rcases rxRead_cases onByte s with ⟨b, rest, _, e⟩ | ⟨rest, _, e⟩ | e <;> rw [e] at h
  · have delivered : KeepsOperation s { s with rxAnswers := rest, trace := s.trace ++ [.read (.byte b)] } := by
      constructor <;> rfl
    rcases honByte b _ h with kept | ⟨kind, u, kept, ht⟩
    · exact .inl (delivered.trans kept)
    · exact .inr ⟨kind, u, delivered.trans kept, ht⟩
  · cases h
    exact .inr ⟨_, _, by constructor <;> rfl, rfl⟩
  · cases h
    exact .inl (by constructor <;> rfl)

/-- A step of the instruction in progress keeps the operation, or fails, or is the ending of its rule. -/
theorem exec_busy_keeps {i : Instr} {s t : State} (hp : s.phase = .busy) (h : exec i s = .next t) :
    KeepsOrFails s t ∨ finishPart i s = some (s.step, t) := by
  rcases exec_busy_cases hp h with ⟨c, d, after, hframe, _, _, rfl⟩ | ⟨n, after, field, hrecv, _, _, hread⟩ | hfin
  · exact .inl (encStep_keepsOrFails (framePart_after_keeps hframe) c d s)
  · exact .inl (rxRead_keepsOrFails (fun _ _ => decodeField_keepsOrFails (receivePart_after_keeps hrecv)) hread)
  · exact .inr hfin

/-! Acceptance. -/

/-- The operation a request starts; a wire command starts none (R76, R80). -/
def acceptedOperation : Instr → Option Operation
  | .encode _ _ => some .encode
  | .decode _ => some .decode
  | .extract _ => some .extract
  | .setDataMode _ => some .setDataMode
  | .getPassive => some .getPassive
  | .getActive => some .getActive
  | .sleepSet _ => some .sleepSet
  | .wireChangeMode _ => none
  | .wireReadPassive => none
  | .wireSleepSet _ => none

/-- What acceptance leaves from `s` to `t` (R84): BUSY with the operation named by OP, RESULT_VALID 0; STATUS, the
responses, PAYLOAD and PLEN as they were. -/
structure Accepts (op : Operation) (s t : State) : Prop where
  phase : t.phase = .busy
  op : t.op = op.code
  resultValid : t.resultValid = false
  status : t.status = s.status
  responses : t.responses = s.responses
  requests : t.requests = s.requests
  resetLine : t.resetLine = s.resetLine
  payload : t.payload = s.payload
  plen : t.plen = s.plen

@[simp] theorem acceptedOperation_operationInstr (op : Operation) (s : State) :
    acceptedOperation (operationInstr op s) = some op := by
  cases op <;> rfl

/-- The operation that an instruction in progress names is the one it was accepted as. -/
theorem acceptedOperation_eq {op op' : Operation} {i : Instr} {s : State} (hi : operationInstr op s = i)
    (h : acceptedOperation i = some op') : op = op' := by
  rw [← hi, acceptedOperation_operationInstr] at h
  exact Option.some.inj h

theorem acceptPart_accepts {i : Instr} {s t : State} (h : acceptPart i s = some t) :
    ∃ op, acceptedOperation i = some op ∧ Accepts op s t := by
  cases i with
  | decode n =>
    simp only [acceptPart, Option.ite_none_right_eq_some] at h
    obtain ⟨_, ⟨⟩⟩ := h
    exact ⟨_, rfl, by constructor <;> rfl⟩
  | _ =>
    cases h <;> exact ⟨_, rfl, by constructor <;> rfl⟩

/-- OPBUF is latched by the acceptance of EXTRACT and by no other (R26, R84). -/
theorem acceptPart_opbuf {i : Instr} {s t : State} (h : acceptPart i s = some t) :
    t.opbuf = s.opbuf ∨ i = .extract t.opbuf := by
  cases i with
  | decode n =>
    simp only [acceptPart, Option.ite_none_right_eq_some] at h
    obtain ⟨_, ⟨⟩⟩ := h
    exact .inl rfl
  | extract a =>
    cases h
    exact .inr rfl
  | _ => cases h <;> exact .inl rfl

/-! The ending of an operation. -/

/-- How an operation that has made its calls ends: an unexpected echo, an empty result, the payload of DECODE, or a
measurement (R100, R120, R150, R170 to R174). -/
theorem finishPart_cases {i : Instr} {s t : State} {sub : SubOp} (h : finishPart i s = some (sub, t)) :
    t = raise .unexpectedResponse s ∨ t = complete .empty s ∨
      ((∃ n, i = .decode n) ∧ t = complete (.payload (payloadPart s.payload s.plen.toNat)) s) ∨
      (((∃ a, i = .extract a) ∨ i = .getPassive ∨ i = .getActive) ∧
        ∃ m, t = complete (.measurement m) { s with meas := m }) := by
  have verify (c m : Byte) : verifyAndComplete c m s = raise .unexpectedResponse s ∨
      verifyAndComplete c m s = complete .empty s := by
    rcases verifyAndComplete_cases c m s with ⟨_, _, e⟩ | ⟨_, e⟩
    · exact .inr e
    · exact .inl e
  cases i with
  | encode c d => cases h; exact .inr (.inl rfl)
  | decode n => cases h; exact .inr (.inr (.inl ⟨⟨n, rfl⟩, rfl⟩))
  | extract a => cases h; exact .inr (.inr (.inr ⟨.inl ⟨a, rfl⟩, _, rfl⟩))
  | setDataMode m =>
    cases h
    exact (verify _ _).imp_right .inl
  | getPassive => cases h; exact .inr (.inr (.inr ⟨.inr (.inl rfl), _, rfl⟩))
  | getActive => cases h; exact .inr (.inr (.inr ⟨.inr (.inr rfl), _, rfl⟩))
  | sleepSet m =>
    simp only [finishPart] at h
    split at h <;> cases h
    · exact (verify _ _).imp_right .inl
    · exact .inr (.inl rfl)
  | wireChangeMode d => cases h
  | wireReadPassive => cases h
  | wireSleepSet d => cases h

/-- Only an operation ends; a wire command goes on with what follows its frame. So where the instruction in progress
ends, it is the operation that OP names. -/
theorem instrInProgress_of_finishPart {i : Instr} {s : State} {out : SubOp × State}
    (hi : instrInProgress s = some i) (hfin : finishPart i s = some out) :
    ∃ op, Operation.ofCode s.op = some op ∧ i = operationInstr op s := by
  obtain ⟨op, hop, ⟨_, rfl⟩ | ⟨_, hframe⟩⟩ := instrInProgress_cases hi
  · exact ⟨op, hop, rfl⟩
  · rw [decodeFrame_commandFrame] at hframe
    split_ifs at hframe <;> cases hframe <;> cases hfin

theorem raise_visibleResult (kind : ErrorKind) (s : State) : (raise kind s).visibleResult = .absent := by
  cases kind <;> rfl

theorem complete_payload_visibleResult {s : State} (h : s.op = Operation.decode.code) :
    (complete (.payload (payloadPart s.payload s.plen.toNat)) s).visibleResult =
      .payload (payloadPart s.payload s.plen.toNat) := by
  simp [State.visibleResult, h, Result.valid]

theorem complete_measurement_visibleResult {s : State} (m : Vector Half 12) (h : s.op ≠ Operation.decode.code) :
    (complete (.measurement m) { s with meas := m }).visibleResult = .measurement m := by
  simp [State.visibleResult, h, Result.valid]

/-- From `s` to `t` one response is given, which holds STATUS and the result the host can then read (R38). -/
structure EndsWithResponse (s t : State) : Prop where
  phase : t.phase = .idle
  responses : t.responses = s.responses ++ [{ status := t.status, result := t.visibleResult }]

theorem raise_endsWithResponse (kind : ErrorKind) (s : State) : EndsWithResponse s (raise kind s) :=
  ⟨rfl, by rw [raise_visibleResult]; rfl⟩

/-- Where OP names the operation that ends, its response holds what the host can then read (R204). -/
theorem finishPart_endsWithResponse {op : Operation} {s t : State} {sub : SubOp}
    (hop : Operation.ofCode s.op = some op) (h : finishPart (operationInstr op s) s = some (sub, t)) :
    EndsWithResponse s t := by
  have hcode := ofCode_eq_some hop
  rcases finishPart_cases h with rfl | rfl | ⟨⟨n, hi⟩, rfl⟩ | ⟨hi, m, rfl⟩
  · exact raise_endsWithResponse _ s
  · exact ⟨rfl, rfl⟩
  · cases acceptedOperation_eq hi rfl
    refine ⟨rfl, ?_⟩
    rw [complete_payload_visibleResult hcode]
    rfl
  · have hdec : s.op ≠ Operation.decode.code := by
      rw [hcode]
      rcases hi with ⟨a, hi⟩ | hi | hi <;> cases acceptedOperation_eq hi rfl <;> decide
    refine ⟨rfl, ?_⟩
    rw [complete_measurement_visibleResult m hdec]
    rfl

/-- Settles O49: a step in BUSY keeps the operation, fails, or is its ending, and only the last two respond. -/
theorem oneResponseWhenAnOperationEnds : Obligations.OneResponseWhenAnOperationEnds := by
  intro s t hr h
  obtain ⟨s', hs', hcases⟩ := step_cases hr h
  have hphase : s'.phase = s.phase := by rw [hs']
  have hresponses : s'.responses = s.responses := by rw [hs']
  have hstatus : s'.status = s.status := by rw [hs']
  rw [← hphase, ← hresponses, ← hstatus]
  rcases hcases with ⟨rfl, _⟩ | ⟨_, later, i, hidle, _, _, haccept⟩ | ⟨i, hbusy, _, hi, hexec⟩
  · exact .inr ⟨by simp +contextual, rfl, rfl⟩
  · obtain ⟨op, _, hacc⟩ := acceptPart_accepts haccept
    exact .inr ⟨by simp [hacc.phase], hacc.responses, hacc.status⟩
  · rw [← hphase] at hbusy
    rcases exec_busy_keeps hbusy hexec with (kept | ⟨kind, u, kept, rfl⟩) | hfin
    · exact .inr ⟨by simp [kept.phase, hbusy], kept.responses, kept.status⟩
    · have ended := raise_endsWithResponse kind u
      exact .inl ⟨⟨hbusy, ended.phase⟩, by rw [ended.responses, kept.responses]⟩
    · obtain ⟨op, hop, rfl⟩ := instrInProgress_of_finishPart hi hfin
      have ended := finishPart_endsWithResponse hop hfin
      exact .inl ⟨⟨hbusy, ended.phase⟩, ended.responses⟩

/-! The two byte arrays. -/

theorem encStep_payload {i : Instr} {c : Byte} {d : Half} {after : State → State}
    (h : framePart i = some (c, d, after)) (s : State) : (encStep c d after s).payload = s.payload := by
  have hafter (u : State) : (after u).payload = u.payload := by
    rcases framePart_after_cases h with rfl | ⟨n, rfl⟩ <;> rfl
  rcases encStep_cases c d after s with ⟨rest, u, _, hu, e⟩ | ⟨rest, _, e⟩ | e <;> rw [e]
  · have accepted : u.payload = s.payload := by rw [hu]
    split
    · rw [hafter, accepted]
    · exact accepted
  · rfl

/-- What DEC does with a byte changes at most the PAYLOAD byte whose field it is (R121). -/
theorem decodeField_payload {n : Nat} {after : State → State} {field : FrameField} {b : Byte} {s t : State} {j : Nat}
    (hafter : ∀ u, (after u).payload = u.payload) (hj : field ≠ .payload j)
    (h : decodeField n after field b s = .next t) : t.payload[j]? = s.payload[j]? := by
  rcases decodeField_cases h with ⟨u, ht, hu⟩ | ⟨_, rfl⟩
  · have update : u.payload[j]? = s.payload[j]? := by
      rcases hu with rfl | ⟨_, rfl⟩ | ⟨i, hi, hfield, rfl⟩ | ⟨_, rfl⟩
      · rfl
      · rfl
      · have hij : i ≠ j := fun e => hj (by rw [hfield, e])
        exact Vector.getElem?_set_ne hi hij
      · rfl
    rcases ht with rfl | ⟨kind, rfl⟩ <;> exact update
  · rw [hafter]

theorem rxRead_payload {onByte : Byte → State → Result3} {s t : State} {j : Nat}
    (honByte : ∀ b u, onByte b u = .next t → t.payload[j]? = u.payload[j]?) (h : rxRead onByte s = .next t) :
    t.payload[j]? = s.payload[j]? := by
  rcases rxRead_cases onByte s with ⟨b, rest, _, e⟩ | ⟨rest, _, e⟩ | e <;> rw [e] at h
  · have delivered := honByte b _ h
    exact delivered
  · cases h
    rfl
  · cases h
    rfl

theorem finishPart_payload {i : Instr} {s t : State} {sub : SubOp} (h : finishPart i s = some (sub, t)) :
    t.payload = s.payload := by
  rcases finishPart_cases h with rfl | rfl | ⟨_, rfl⟩ | ⟨_, m, rfl⟩ <;> rfl

theorem finishPart_opbuf {i : Instr} {s t : State} {sub : SubOp} (h : finishPart i s = some (sub, t)) :
    t.opbuf = s.opbuf := by
  rcases finishPart_cases h with rfl | rfl | ⟨_, rfl⟩ | ⟨_, m, rfl⟩ <;> rfl

/-- A step of the instruction in progress changes at most the PAYLOAD byte at IDX - 4, and that only in DEC. -/
theorem exec_busy_payload {i : Instr} {s t : State} {j : Nat} (hp : s.phase = .busy) (h : exec i s = .next t)
    (hj : ¬ (s.step = .dec ∧ s.idx.toNat = j + 4)) : t.payload[j]? = s.payload[j]? := by
  rcases exec_busy_cases hp h with ⟨c, d, after, hframe, _, _, rfl⟩ | ⟨n, after, field, hrecv, hdec, hfield, hread⟩ | hfin
  · rw [encStep_payload hframe]
  · have hafter (u : State) : (after u).payload = u.payload := by
      rcases receivePart_after_cases hrecv with rfl | rfl | rfl <;> rfl
    have hother : field ≠ .payload j := by
      rintro rfl
      exact hj ⟨hdec, (fieldAt_payload hfield).1⟩
    exact rxRead_payload (fun b u => decodeField_payload hafter hother) hread
  · rw [finishPart_payload hfin]

theorem exec_busy_opbuf {i : Instr} {s t : State} (hp : s.phase = .busy) (h : exec i s = .next t) :
    t.opbuf = s.opbuf := by
  rcases exec_busy_keeps hp h with (kept | ⟨kind, u, kept, rfl⟩) | hfin
  · exact kept.opbuf
  · exact kept.opbuf
  · exact finishPart_opbuf hfin

/-- Settles O35: acceptance leaves PAYLOAD and latches at most OPBUF; a step in BUSY does the reverse. -/
theorem stepWritesOnlyTheIndexedPayloadByte : Obligations.StepWritesOnlyTheIndexedPayloadByte := by
  intro s t hr h
  obtain ⟨s', hs', hcases⟩ := step_cases hr h
  have hopbuf : s'.opbuf = s.opbuf := by rw [hs']
  have hpayload : s'.payload = s.payload := by rw [hs']
  rw [← hopbuf, ← hpayload]
  rcases hcases with ⟨rfl, _⟩ | ⟨r, later, i, hidle, hreq, hdec, haccept⟩ | ⟨i, hbusy, _, _, hexec⟩
  · exact ⟨fun _ _ => rfl, .inl rfl⟩
  · obtain ⟨op, _, hacc⟩ := acceptPart_accepts haccept
    refine ⟨fun j _ => by rw [hacc.payload], ?_⟩
    rcases acceptPart_opbuf haccept with hkept | rfl
    · exact .inl hkept
    · exact .inr ⟨r, later, hidle, hreq, hdec⟩
  · have hbusy' : s'.phase = .busy := by rw [hs']; exact hbusy
    have hstep : s'.step = s.step := by rw [hs']
    have hidx : s'.idx = s.idx := by rw [hs']
    refine ⟨fun j hj => exec_busy_payload hbusy' hexec ?_, .inl (exec_busy_opbuf hbusy' hexec)⟩
    rw [hstep, hidx]
    exact fun hat => hj ⟨hbusy, hat⟩

end Sys2Proof.Machine

/-! ## Which instruction a step in BUSY runs, and its part as one equation (spec/10_state.md R21 to R28, R34)

The converse of `exec_busy_cases`: where the sub-operation still has a call to make, the meaning is that call. -/

namespace Sys2Proof.Machine

/-- Below index 7 in ENC an instruction that sends a frame makes its next write (R101). -/
theorem exec_of_framePart {i : Instr} {c : Byte} {d : Half} {after : State → State} {s : State}
    (hp : s.phase = .busy) (h : framePart i = some (c, d, after)) (henc : s.step = .enc) (hidx : s.idx.toNat < 7) :
    exec i s = .next (encStep c d after s) := by
  have unfinished : s.idx.toNat ≠ 7 := by omega
  cases i <;> cases h
  case encode => rw [exec_encode_busy hp, if_neg (fun done => unfinished done.2), sendFrame_of_enc henc hidx]
  case setDataMode => simp only [exec_setDataMode_busy hp, henc, sendFrame_of_enc henc hidx]
  case getPassive => simp only [exec_getPassive_busy hp, henc, sendFrame_of_enc henc hidx]
  case sleepSet => simp [exec_sleepSet_busy hp, henc, unfinished, sendFrame_of_enc henc hidx]
  case wireChangeMode => rw [exec_wireChangeMode_busy hp, sendFrame_of_enc henc hidx]
  case wireReadPassive => rw [exec_wireReadPassive_busy hp, sendFrame_of_enc henc hidx]
  case wireSleepSet => rw [exec_wireSleepSet_busy hp, sendFrame_of_enc henc hidx]

/-- Below the end of the frame in DEC an instruction that receives one makes its next read (R121). -/
theorem exec_of_receivePart {i : Instr} {n : Nat} {after : State → State} {s : State} (hp : s.phase = .busy)
    (h : receivePart i = some (n, after)) (hdec : s.step = .dec) (hidx : s.idx.toNat < n + 6) :
    exec i s = decStep n after s := by
  cases i with
  | decode m =>
    cases h
    rw [exec_decode_busy hp, if_pos hdec, if_neg (by omega)]
  | setDataMode m =>
    cases h
    simp only [exec_setDataMode_busy hp, hdec, Config.responseLength]
  | getPassive =>
    cases h
    simp only [exec_getPassive_busy hp, hdec, Config.measurementLength]
  | getActive =>
    cases h
    simp only [exec_getActive_busy hp, hdec, Config.measurementLength]
  | sleepSet m =>
    simp only [receivePart, Option.ite_none_right_eq_some] at h
    obtain ⟨hm, ⟨⟩⟩ := h
    simp only [exec_sleepSet_busy hp, hdec, if_pos hm, Config.responseLength]
  | _ => cases h

/-! The step with no reset due, by what the fetch finds; `u` is the state with the reset input one sample on. -/

theorem step_of_no_request {s u : State} (hp : s.phase = .idle) (hr : ¬ ResetDue s)
    (hu : u = { s with resetLine := s.resetLine.tail }) (hreq : s.requests = []) : step s = .next u := by
  have hp' : u.phase = .idle := by rw [hu]; exact hp
  have hreq' : u.requests = [] := by rw [hu]; exact hreq
  apply step_of_advance
  rw [fetch_of_not_resetDue hr, ← hu, fetchByPhase_idle hp', fetchRequest_nil hreq']

theorem step_of_request {s u : State} {r : Request} {later : List Request} {i : Instr} (hp : s.phase = .idle)
    (hr : ¬ ResetDue s) (hu : u = { s with resetLine := s.resetLine.tail }) (hreq : s.requests = r :: later)
    (hd : decodeRequest r = .ok i) : step s = exec i { u with requests := later } := by
  have hp' : u.phase = .idle := by rw [hu]; exact hp
  have hreq' : u.requests = r :: later := by rw [hu]; exact hreq
  apply step_of_run
  rw [fetch_of_not_resetDue hr, ← hu, fetchByPhase_idle hp', fetchRequest_ok hreq' hd]

theorem step_of_refused_request {s : State} {r : Request} {later : List Request} {e : Reject} (hp : s.phase = .idle)
    (hr : ¬ ResetDue s) (hreq : s.requests = r :: later) (hd : decodeRequest r = .error e) :
    step s = .refused (refusalOf e) := by
  apply step_of_refuse
  rw [fetch_of_not_resetDue hr, fetchByPhase_idle (by exact hp), fetchRequest_error (by exact hreq) hd]

theorem step_of_outstanding {s u : State} (hp : s.phase = .busy) (hr : ¬ ResetDue s)
    (hu : u = { s with resetLine := s.resetLine.tail }) (hpend : s.pending ≠ none) : step s = .next u := by
  have hp' : u.phase = .busy := by rw [hu]; exact hp
  have hpend' : u.pending ≠ none := by rw [hu]; exact hpend
  apply step_of_advance
  rw [fetch_of_not_resetDue hr, ← hu, fetchByPhase_busy hp', fetchBusy_pending hpend']

theorem step_of_instrInProgress {s u : State} {i : Instr} (hp : s.phase = .busy) (hfree : s.pending = none)
    (hr : ¬ ResetDue s) (hu : u = { s with resetLine := s.resetLine.tail }) (hi : instrInProgress u = some i) :
    step s = exec i u := by
  have hp' : u.phase = .busy := by rw [hu]; exact hp
  have hfree' : u.pending = none := by rw [hu]; exact hfree
  apply step_of_run
  rw [fetch_of_not_resetDue hr, ← hu, fetchByPhase_busy hp', fetchBusy_run hfree' hi]

/-- A wire command is in progress only below index 7 in ENC, and only in an operation that sends one. -/
theorem sendingWireCommand_eq_false {op : Operation} {s : State}
    (h : op ∉ [.setDataMode, .getPassive, .sleepSet] ∨ s.step ≠ .enc ∨ 7 ≤ s.idx.toNat) :
    sendingWireCommand op s = false := by
  rcases h with hop | hstep | hidx
  · cases op <;> simp [sendingWireCommand] at hop ⊢
  · simp [sendingWireCommand, hstep]
  · simp [sendingWireCommand, Config.commandFrameLength, Nat.not_lt.2 hidx]

/-- With no wire command in progress a step runs the operation that OP names. -/
theorem step_of_operation {s u : State} {op : Operation} (hp : s.phase = .busy) (hfree : s.pending = none)
    (hr : ¬ ResetDue s) (hu : u = { s with resetLine := s.resetLine.tail }) (hop : s.op = op.code)
    (hwire : op ∉ [.setDataMode, .getPassive, .sleepSet] ∨ s.step ≠ .enc ∨ 7 ≤ s.idx.toNat) :
    step s = exec (operationInstr op s) u := by
  have hop' : Operation.ofCode u.op = some op := by rw [hu, ← ofCode_code op, ← hop]
  have hwire' : sendingWireCommand op u = false := by
    rw [hu]
    exact sendingWireCommand_eq_false (s := { s with resetLine := _ }) hwire
  have hinstr : operationInstr op u = operationInstr op s := by
    rw [hu]
    cases op <;> rfl
  rw [← hinstr]
  exact step_of_instrInProgress hp hfree hr hu (instrInProgress_operation hop' hwire')

/-- Settles O8: `step_of_operation` at each of the seven operation codes. -/
theorem stepRunsTheOperationInProgress : Obligations.StepRunsTheOperationInProgress := by
  intro s u hp hfree hr hu
  have runs (op : Operation) (hop : s.op = op.code) := step_of_operation hp hfree hr hu hop
  refine ⟨fun h => ?_, fun h => ?_, fun h => ?_, fun h => ?_, fun hnot => ⟨fun h => ?_, fun h => ?_, fun h => ?_⟩⟩
  · exact runs .encode h (.inl (by decide))
  · exact runs .decode h (.inl (by decide))
  · exact runs .extract h (.inl (by decide))
  · exact runs .getActive h (.inl (by decide))
  · exact runs .setDataMode h (.inr hnot)
  · exact runs .getPassive h (.inr hnot)
  · exact runs .sleepSet h (.inr hnot)

/-! Calls that are not answered. -/

theorem txWrite_unanswered {s : State} {rest : List TxAnswer} (b : Byte) (onOk : State → State)
    (h : s.txAnswers = .never :: rest ∨ (s.txAnswers = [] ∧ rest = [])) :
    txWrite b onOk s = { s with txAnswers := rest, pending := some (.write b) } := by
  rcases h with hnever | ⟨hnil, rfl⟩
  · exact txWrite_never b onOk hnever
  · rw [txWrite_nil b onOk hnil, ← hnil]

theorem rxRead_unanswered {s : State} {rest : List RxAnswer} (onByte : Byte → State → Result3)
    (h : s.rxAnswers = .never :: rest ∨ (s.rxAnswers = [] ∧ rest = [])) :
    rxRead onByte s = .next { s with rxAnswers := rest, pending := some .read } := by
  rcases h with hnever | ⟨hnil, rfl⟩
  · exact rxRead_never onByte hnever
  · rw [rxRead_nil onByte hnil, ← hnil]

/-- Settles O51: the write and the read of `exec_of_framePart` and `exec_of_receivePart`, unanswered. -/
theorem unansweredCallIsLeftOutstanding : Obligations.UnansweredCallIsLeftOutstanding := by
  refine fun s hp => ⟨fun i c b d rest hi henc hb hsum hrest => ?_, fun n rest hdec hidx hrest => ?_⟩
  · have hframe : ∃ after, framePart i = some (c, d, after) := by
      rcases hi with rfl | ⟨rfl, rfl⟩ | ⟨rfl, rfl, rfl⟩ | ⟨rfl, rfl⟩ <;> exact ⟨_, rfl⟩
    obtain ⟨after, hframe⟩ := hframe
    obtain ⟨hidx, _⟩ := List.getElem?_eq_some_iff.1 hb
    rw [exec_of_framePart hp hframe henc hidx, encStep, txWrite_unanswered _ _ hrest, hsum, encoderByte_coveredSum hb,
      ← hsum]
  · obtain ⟨field, hfield⟩ := Option.isSome_iff_exists.1 ((fieldAt_isSome_iff n.toNat s.idx.toNat).2 hidx)
    rw [exec_of_receivePart hp rfl hdec hidx, decStep_of_field hfield, rxRead_unanswered _ hrest]

/-! DEC with what follows it, against DEC alone. -/

theorem fieldAt_lt {n idx : Nat} {field : FrameField} (h : fieldAt n idx = some field) : idx < n + 6 :=
  (fieldAt_isSome_iff n idx).1 (by rw [h]; rfl)

/-- The last byte of a frame is its second checksum byte (R73). -/
theorem fieldAt_eq_chkLo_iff {n idx : Nat} {field : FrameField} (h : fieldAt n idx = some field) :
    field = .chkLo ↔ idx = n + 5 := by
  unfold fieldAt at h
  split_ifs at h <;> cases h <;> simp <;> omega

theorem withNextAt_of_ne {last : Nat} {next : SubOp} {t : State} (h : t.phase = .busy → t.idx.toNat ≠ last) :
    withNextAt last next (.next t) = .next t := by
  rw [withNextAt, if_neg fun hat => h hat.1 hat.2]

/-- What follows the frame matters at its last byte only (R120). -/
theorem decodeField_after_irrelevant {n : Nat} {field : FrameField} (hlast : field ≠ .chkLo)
    (after after' : State → State) (b : Byte) (s : State) :
    decodeField n after field b s = decodeField n after' field b s := by
  cases field with
  | chkLo => exact absurd rfl hlast
  | _ => rfl

/-- What DEC does with a byte advances IDX by one. -/
theorem decodeField_idx {n : Nat} {field : FrameField} {b : Byte} {s t : State}
    (h : decodeField n id field b s = .next t) : t.idx = s.idx + 1 := by
  rcases decodeField_cases h with ⟨u, ht, hu⟩ | ⟨_, rfl⟩
  · have update : u.idx = s.idx + 1 := by
      rcases hu with rfl | ⟨_, rfl⟩ | ⟨_, _, _, rfl⟩ | ⟨_, rfl⟩ <;> rfl
    rcases ht with rfl | ⟨kind, rfl⟩ <;> exact update
  · rfl

/-- The byte of one field, with the next sub-operation started after the last (R120). -/
theorem decodeField_eq_withNextAt {n : Nat} {next : SubOp} {after : State → State} {field : FrameField} {s : State}
    (hafter : ∀ u, after u = { u with step := next }) (hp : s.phase = .busy) (hn : n ≤ Config.maxPayload)
    (hfield : fieldAt n s.idx.toNat = some field) (b : Byte) :
    decodeField n after field b s = withNextAt (n + 6) next (decodeField n id field b s) := by
  have hn : n ≤ 26 := hn
  have hlt := fieldAt_lt hfield
  have hidx : (s.idx + 1).toNat = s.idx.toNat + 1 := toNat_add_one (by omega)
  have hlast := fieldAt_eq_chkLo_iff hfield
  by_cases hfinal : field = .chkLo
  · have hat := hlast.1 hfinal
    subst hfinal
    simp only [decodeField]
    split
    · have hend : (s.idx + 1).toNat = n + 6 := by omega
      simp only [withNextAt, hafter, id_eq, hp, hend, and_self, if_true]
    · exact (withNextAt_of_ne (by simp)).symm
  · have hbefore : s.idx.toNat ≠ n + 5 := fun hat => hfinal (hlast.2 hat)
    rw [decodeField_after_irrelevant hfinal after id]
    rcases hout : decodeField n id field b s with t | f | r
    · have hnot : t.idx.toNat ≠ n + 6 := by
        rw [decodeField_idx hout, hidx]
        omega
      rw [withNextAt_of_ne fun _ => hnot]
    · rfl
    · rfl

/-- One step of DEC(n) that ends in the next sub-operation is one of DEC(n) alone, with STEP moved on where that accepts
the last byte (R28, R120). -/
theorem decStep_eq_withNextAt {n : Nat} {next : SubOp} {after : State → State} {s : State}
    (hafter : ∀ u, after u = { u with step := next }) (hp : s.phase = .busy) (hn : n ≤ Config.maxPayload)
    (hidx : s.idx.toNat < n + 6) : decStep n after s = withNextAt (n + 6) next (decStep n id s) := by
  obtain ⟨field, hfield⟩ := Option.isSome_iff_exists.1 ((fieldAt_isSome_iff n s.idx.toNat).2 hidx)
  rw [decStep_of_field hfield, decStep_of_field hfield]
  rcases hrx : s.rxAnswers with _ | ⟨_ | _ | _, rest⟩
  · rw [rxRead_nil _ hrx, rxRead_nil _ hrx]
    refine (withNextAt_of_ne ?_).symm
    exact fun _ => hidx.ne
  · rw [rxRead_byte _ hrx, rxRead_byte _ hrx]
    refine decodeField_eq_withNextAt hafter ?_ hn ?_ _
    · exact hp
    · exact hfield
  · rw [rxRead_fail _ hrx, rxRead_fail _ hrx]
    exact (withNextAt_of_ne (by simp)).symm
  · rw [rxRead_never _ hrx, rxRead_never _ hrx]
    refine (withNextAt_of_ne ?_).symm
    exact fun _ => hidx.ne

/-- Settles O26: each of the four operations is in DEC(2) or DEC(26), which `decStep_eq_withNextAt` compares. -/
theorem compoundDecPartIsDecode : Obligations.CompoundDecPartIsDecode := by
  intro s m hp hdec
  have compare {i : Instr} {n : Byte} {next : SubOp} {after : State → State} (hn : n.toNat ≤ Config.maxPayload)
      (hi : receivePart i = some (n.toNat, after)) (hafter : ∀ u, after u = { u with step := next })
      (hidx : s.idx.toNat < n.toNat + 6) :
      exec i s = withNextAt (n.toNat + 6) next (exec (.decode n) s) := by
    rw [exec_of_receivePart hp hi hdec hidx, exec_of_receivePart (i := .decode n) hp rfl hdec hidx]
    exact decStep_eq_withNextAt hafter hp hn hidx
  exact ⟨fun hidx => ⟨compare (n := 2) (by decide) rfl (fun _ => rfl) hidx,
      compare (n := 2) (by decide) rfl (fun _ => rfl) hidx⟩,
    fun hidx => ⟨compare (n := 26) (by decide) rfl (fun _ => rfl) hidx,
      compare (n := 26) (by decide) rfl (fun _ => rfl) hidx⟩⟩

end Sys2Proof.Machine

/-! ## The sequencer (spec/10_state.md R28, R29; spec/40_frame_encoder.md R101; spec/41_frame_decoder.md R121)

`Sequenced` says where in its rule an operation can be. `sequenced_cases` reads it as one of three: a write of the frame
is next, a read of the frame is next, or the operation ends. `operation_step` says what the operation in progress then
does, and that it does not fault. -/

namespace Sys2Proof.Machine

/-- From `s` to `t` the operation in progress is kept with all its operands, and PLEN fits the buffer if it did. -/
structure Continues (s t : State) : Prop extends KeepsOperation s t where
  explen : t.explen = s.explen
  plen : s.plen.toNat ≤ Config.maxPayload → t.plen.toNat ≤ Config.maxPayload

/-- The instruction in progress is read from OP, CMD, DATA, MODE, EXPLEN and OPBUF (R66). -/
theorem Continues.operationInstr_eq {s t : State} (h : Continues s t) (op : Operation) :
    operationInstr op t = operationInstr op s := by
  cases op <;> simp only [operationInstr, h.cmd, h.data, h.mode, h.opbuf, h.explen]

/-- What follows a command frame loads no operand of the operation that sent it. -/
theorem framePart_after_operationInstr {op : Operation} {s : State} {c : Byte} {d : Half} {after : State → State}
    (h : framePart (operationInstr op s) = some (c, d, after)) (u : State) :
    operationInstr op (after u) = operationInstr op u := by
  cases op with
  | decode => cases h
  | _ => rcases framePart_after_cases h with rfl | ⟨n, rfl⟩ <;> rfl

theorem receivePart_after_operationInstr {op : Operation} {i : Instr} {n : Nat} {after : State → State}
    (h : receivePart i = some (n, after)) (u : State) : operationInstr op (after u) = operationInstr op u := by
  rcases receivePart_after_cases h with rfl | rfl | rfl <;> cases op <;> rfl

/-- The operation has made its last call: STEP is its last sub-operation, all of its command frame is sent where that is
ENC, and PAYLOAD and PLEN hold the accepted frame where it received one. -/
structure AtEnd (op : Operation) (s : State) : Prop where
  last : (subOps op s.mode).getLast? = some s.step
  sent : s.step = .enc → s.idx.toNat = 7
  received : ∀ n after, receivePart (operationInstr op s) = some (n, after) →
    s.explen.toNat = n ∧ s.idx.toNat = n + 6 ∧ s.plen.toNat = n

/-- After an accepted frame the last sub-operation is what is left of the operation (R150, R174). -/
theorem atEnd_of_inAfterDec {op : Operation} {s : State} {n : Nat} {next : SubOp} (h : InAfterDec s n next)
    (hlast : (subOps op s.mode).getLast? = some next) (hnext : next ≠ .enc)
    (hrecv : ∀ m after, receivePart (operationInstr op s) = some (m, after) → m = n) : AtEnd op s := by
  obtain ⟨hstep, hn, hidx, _, hplen⟩ := h
  refine ⟨by rw [hstep, hlast], fun henc => absurd (hstep.symm.trans henc) hnext, fun m after hm => ?_⟩
  cases hrecv m after hm
  exact ⟨hn, hidx, hplen⟩

/-- Where an operation in progress stands: before a write of its frame, before a read of its frame, or at its end. -/
theorem sequenced_cases {op : Operation} {s : State} (hop : Operation.ofCode s.op = some op) (hseq : Sequenced s) :
    (∃ c d after, framePart (operationInstr op s) = some (c, d, after) ∧ InEnc s c d 6) ∨
      (∃ n after, receivePart (operationInstr op s) = some (n, after) ∧ InDec s n (n + 5)) ∨ AtEnd op s := by
  have sleepSet_sent (h : s.mode = 1) (hstep : s.step = .enc) (hidx : s.idx.toNat = 7) : AtEnd .sleepSet s :=
    ⟨by simp [subOps, h, hstep], fun _ => hidx, by simp [operationInstr, receivePart, h]⟩
  cases op <;> simp only [Sequenced, hop] at hseq
  case encode =>
    obtain ⟨henc, hidx, hregs⟩ := hseq
    rcases Nat.lt_or_eq_of_le hidx with hlt | hend
    · exact .inl ⟨_, _, _, rfl, henc, Nat.le_of_lt_succ hlt, hregs⟩
    · exact .inr (.inr ⟨by rw [henc]; rfl, fun _ => hend, nofun⟩)
  case decode =>
    obtain ⟨hdec, hn, hmax, hidx, hlen, hplen⟩ := hseq
    rcases Nat.lt_or_eq_of_le hidx with hlt | hend
    · exact .inr (.inl ⟨_, _, rfl, hdec, hn, hmax, Nat.le_of_lt_succ hlt, hlen, hplen⟩)
    · refine .inr (.inr ⟨by rw [hdec]; rfl, by simp [hdec], ?_⟩)
      rintro n after ⟨⟩
      exact ⟨rfl, hend, hplen hend⟩
  case extract => exact .inr (.inr ⟨by rw [hseq]; rfl, by simp [hseq], nofun⟩)
  case setDataMode =>
    rcases hseq with henc | hdec | hver
    · exact .inl ⟨_, _, _, rfl, henc⟩
    · exact .inr (.inl ⟨_, _, rfl, hdec⟩)
    · exact .inr (.inr (atEnd_of_inAfterDec hver rfl (by decide) (by rintro m after ⟨⟩; rfl)))
  case getPassive =>
    rcases hseq with henc | hdec | hext
    · exact .inl ⟨_, _, _, rfl, henc⟩
    · exact .inr (.inl ⟨_, _, rfl, hdec⟩)
    · exact .inr (.inr (atEnd_of_inAfterDec hext rfl (by decide) (by rintro m after ⟨⟩; rfl)))
  case getActive =>
    rcases hseq with hdec | hext
    · exact .inr (.inl ⟨_, _, rfl, hdec⟩)
    · exact .inr (.inr (atEnd_of_inAfterDec hext rfl (by decide) (by rintro m after ⟨⟩; rfl)))
  case sleepSet =>
    rcases hseq with ⟨henc, hidx, hregs⟩ | ⟨hm, hdec | hver⟩
    · rcases mode_cases s.mode with hm | hm
      · rw [if_pos hm] at hidx
        exact .inl ⟨_, _, _, rfl, henc, hidx, hregs⟩
      · rw [if_neg (by rw [hm]; decide)] at hidx
        rcases Nat.lt_or_eq_of_le hidx with hlt | hend
        · exact .inl ⟨_, _, _, rfl, henc, Nat.le_of_lt_succ hlt, hregs⟩
        · exact .inr (.inr (sleepSet_sent hm henc hend))
    · exact .inr (.inl ⟨_, beginVer, by simp only [operationInstr, receivePart, hm, if_true], hdec⟩)
    · refine .inr (.inr (atEnd_of_inAfterDec hver (by rw [hm]; rfl) (by decide) ?_))
      simp only [operationInstr, receivePart, hm, if_true]
      rintro m after ⟨⟩
      rfl

/-! The way back: each of these positions is in the rule of the operation. -/

theorem sequenced_of_inEnc {op : Operation} {s : State} {c : Byte} {d : Half} {after : State → State}
    (hop : Operation.ofCode s.op = some op) (h : framePart (operationInstr op s) = some (c, d, after))
    (henc : InEnc s c d 6) : Sequenced s := by
  obtain ⟨hstep, hidx, hregs⟩ := henc
  cases op <;> cases h <;> simp only [Sequenced, hop]
  case encode => exact ⟨hstep, by omega, hregs⟩
  case setDataMode => exact .inl ⟨hstep, hidx, hregs⟩
  case getPassive => exact .inl ⟨hstep, hidx, hregs⟩
  case sleepSet => exact .inl ⟨hstep, by split <;> omega, hregs⟩

theorem sequenced_of_inDec {op : Operation} {s : State} {n : Nat} {after : State → State}
    (hop : Operation.ofCode s.op = some op) (h : receivePart (operationInstr op s) = some (n, after))
    (hdec : InDec s n (n + 5)) : Sequenced s := by
  cases op with
  | encode => cases h
  | extract => cases h
  | decode =>
    cases h
    obtain ⟨hstep, hn, hmax, hidx, hregs⟩ := hdec
    simp only [Sequenced, hop]
    exact ⟨hstep, hn, hmax, Nat.le_succ_of_le hidx, hregs⟩
  | setDataMode =>
    cases h
    simp only [Sequenced, hop]
    exact .inr (.inl hdec)
  | getPassive =>
    cases h
    simp only [Sequenced, hop]
    exact .inr (.inl hdec)
  | getActive =>
    cases h
    simp only [Sequenced, hop]
    exact .inl hdec
  | sleepSet =>
    simp only [operationInstr, receivePart, Option.ite_none_right_eq_some] at h
    obtain ⟨hm, ⟨⟩⟩ := h
    simp only [Sequenced, hop]
    exact .inr ⟨hm, .inl hdec⟩

/-- DEC starts in the rule of DEC (R120). -/
theorem beginDec_inDec {n : Byte} (hn : n.toNat ≤ Config.maxPayload) (last : Nat) (s : State) :
    InDec (beginDec n s) n.toNat last := by
  refine ⟨rfl, rfl, hn, ?_, ?_, ?_⟩ <;> simp [Config.frameOverhead]

/-- ENC starts in the rule of ENC (R100). -/
theorem beginEnc_inEnc (c : Byte) (d : Half) (last : Nat) (s : State) : InEnc (beginEnc c d s) c d last :=
  ⟨rfl, Nat.zero_le last, rfl, rfl, rfl⟩

/-- STEP moves from `a` to `b` in the order that an operation fixes (R28). -/
def InOrder (op : Operation) (mode : BitVec 1) (a b : SubOp) : Prop := b = a ∨ [a, b] <:+: subOps op mode

/-- After the last byte of its frame an operation is in DEC, or at its end (R100, R170, R171, R173). -/
theorem sequenced_of_sent {op : Operation} {s : State} {c : Byte} {d : Half} {after : State → State}
    (hop : Operation.ofCode s.op = some op) (h : framePart (operationInstr op s) = some (c, d, after))
    (henc : InEnc s c d 7) : Sequenced (after s) ∧ InOrder op s.mode s.step (after s).step := by
  obtain ⟨hstep, hidx, hregs⟩ := henc
  cases op <;> cases h
  case encode =>
    simp only [Sequenced, id_eq, hop]
    exact ⟨⟨hstep, hidx, hregs⟩, .inl rfl⟩
  case setDataMode =>
    simp only [Sequenced, afterSetDataModeFrame, beginDec_op, hop, hstep]
    exact ⟨.inr (.inl (beginDec_inDec (n := 2) (by decide) _ s)), .inr ⟨[], [.ver], rfl⟩⟩
  case getPassive =>
    simp only [Sequenced, afterGetPassiveFrame, beginDec_op, hop, hstep]
    exact ⟨.inr (.inl (beginDec_inDec (n := 26) (by decide) _ s)), .inr ⟨[], [.ext], rfl⟩⟩
  case sleepSet =>
    rcases mode_cases s.mode with hm | hm
    · simp only [Sequenced, hm, afterSleepSetFrame_sleep, beginDec_op, beginDec_mode, hop, hstep]
      exact ⟨.inr ⟨trivial, .inl (beginDec_inDec (n := 2) (by decide) _ s)⟩, .inr ⟨[], [.ver], rfl⟩⟩
    · simp only [Sequenced, hm, afterSleepSetFrame_wakeup, id_eq, hop]
      exact ⟨.inl ⟨hstep, hidx, by rw [← hm]; exact hregs⟩, .inl rfl⟩

/-- After the last byte of an accepted frame an operation is in VER or EXT, or at its end (R120, R150, R170 to R174). -/
theorem sequenced_of_received {op : Operation} {s : State} {n : Nat} {after : State → State}
    (hop : Operation.ofCode s.op = some op) (h : receivePart (operationInstr op s) = some (n, after))
    (hmax : n ≤ Config.maxPayload) (hdec : InAfterDec s n .dec) :
    Sequenced (after s) ∧ InOrder op s.mode s.step (after s).step := by
  obtain ⟨hstep, hn, hidx, hlen, hplen⟩ := hdec
  cases op with
  | encode => cases h
  | extract => cases h
  | decode =>
    cases h
    simp only [Sequenced, id_eq, hop]
    exact ⟨⟨hstep, hn, hmax, hidx.le, fun _ => hlen, fun _ => hplen⟩, .inl rfl⟩
  | setDataMode =>
    cases h
    simp only [Sequenced, beginVer_op, hop, hstep]
    exact ⟨.inr (.inr ⟨rfl, hn, hidx, hlen, hplen⟩), .inr ⟨[.enc], [], rfl⟩⟩
  | getPassive =>
    cases h
    simp only [Sequenced, beginExt_op, hop, hstep]
    exact ⟨.inr (.inr ⟨rfl, hn, hidx, hlen, hplen⟩), .inr ⟨[.enc], [], rfl⟩⟩
  | getActive =>
    cases h
    simp only [Sequenced, beginExt_op, hop, hstep]
    exact ⟨.inr ⟨rfl, hn, hidx, hlen, hplen⟩, .inr ⟨[], [], rfl⟩⟩
  | sleepSet =>
    simp only [operationInstr, receivePart, Option.ite_none_right_eq_some] at h
    obtain ⟨hm, ⟨⟩⟩ := h
    simp only [Sequenced, beginVer_op, beginVer_mode, hop, hstep, hm]
    exact ⟨.inr ⟨trivial, .inr ⟨rfl, hn, hidx, hlen, hplen⟩⟩, .inr ⟨[.enc], [], rfl⟩⟩

/-! One call of ENC and of DEC. -/

/-- What a call of the sub-operation in progress leads to: the sub-operation goes on, or it has made its last call and
`after` follows, or the operation fails. -/
inductive CallOutcome (going done : State → Prop) (after : State → State) (s : State) : State → Prop
  | goesOn {u : State} (kept : Continues s u) (h : going u) : CallOutcome going done after s u
  | ends {u : State} (kept : Continues s u) (h : done u) : CallOutcome going done after s (after u)
  | fails (kind : ErrorKind) {u : State} (kept : Continues s u) (step : u.step = s.step)
      (pending : u.pending = s.pending) : CallOutcome going done after s (raise kind u)

/-- One write of ENC (R101). -/
theorem encStep_outcome {c : Byte} {d : Half} {s : State} (after : State → State) (h : InEnc s c d 6) :
    CallOutcome (InEnc · c d 6) (InEnc · c d 7) after s (encStep c d after s) := by
  obtain ⟨hstep, hidx, hcmd, hdata, hsum⟩ := h
  have hsucc : (s.idx + 1).toNat = s.idx.toNat + 1 := toNat_add_one (by omega)
  rcases encStep_cases c d after s with ⟨rest, u, _, hu, e⟩ | ⟨rest, _, e⟩ | e <;> rw [e]
  · have kept : Continues s u := by
      rw [hu]
      exact ⟨by constructor <;> rfl, rfl, id⟩
    have hidx' : u.idx.toNat = s.idx.toNat + 1 := by rw [hu]; exact hsucc
    have hsum' : u.sum = coveredSum c d u.idx.toNat := by
      rw [hidx', ← encoderSum_coveredSum c d (by omega), ← hsum, hu]
    have hstep' : u.step = .enc := by rw [hu]; exact hstep
    have hcmd' : u.cmd = c := kept.cmd.trans hcmd
    have hdata' : u.data = d := kept.data.trans hdata
    split
    · exact .ends kept ⟨hstep', by omega, hcmd', hdata', hsum'⟩
    · rename_i hne
      have hbefore : s.idx.toNat ≠ 6 := fun hat => hne (BitVec.eq_of_toNat_eq hat)
      exact .goesOn kept ⟨hstep', by omega, hcmd', hdata', hsum'⟩
  · exact .fails _ ⟨by constructor <;> rfl, rfl, id⟩ rfl rfl
  · exact .goesOn ⟨by constructor <;> rfl, rfl, id⟩ ⟨hstep, hidx, hcmd, hdata, hsum⟩

/-- Which field lies at which index (R73, R121). -/
theorem fieldAt_cases {n idx : Nat} {field : FrameField} (h : fieldAt n idx = some field) :
    (field = .start1 ∧ idx = 0) ∨ (field = .start2 ∧ idx = 1) ∨ (field = .lenHi ∧ idx = 2) ∨
      (field = .lenLo ∧ idx = 3) ∨ (∃ i, field = .payload i ∧ idx = i + 4 ∧ i < n) ∨
      (field = .chkHi ∧ idx = n + 4) ∨ (field = .chkLo ∧ idx = n + 5) := by
  unfold fieldAt at h
  split_ifs at h <;> cases h <;> simp <;> omega

/-- A check of DEC lets the sub-operation go on, or the operation fails. -/
theorem check_outcome {going done : State → Prop} {after : State → State} {s u : State} (ok : Bool) (kind : ErrorKind)
    (kept : Continues s u) (step : u.step = s.step) (pending : u.pending = s.pending) (h : ok = true → going u) :
    CallOutcome going done after s (check ok kind u) := by
  unfold check
  split
  · rename_i hok
    exact .goesOn kept (h hok)
  · exact .fails kind kept step pending

/-- What DEC does with a byte (R121): no offset of PAYLOAD lies beyond it (R33), and the length field has passed its
check before the next byte is read. -/
theorem decodeField_outcome {n : Nat} {s : State} {field : FrameField} (after : State → State) (b : Byte)
    (h : InDec s n (n + 5)) (hfield : fieldAt n s.idx.toNat = some field) :
    ∃ t, decodeField n after field b s = .next t ∧
      CallOutcome (InDec · n (n + 5)) (InAfterDec · n .dec) after s t := by
  obtain ⟨hstep, hn, hmax, hidx, hlen, -⟩ := h
  have hmax' : n ≤ 26 := hmax
  have hsucc : (s.idx + 1).toNat = s.idx.toNat + 1 := toNat_add_one (by omega)
  have going {u : State} (hstep' : u.step = s.step) (hexplen : u.explen = s.explen) (hidx' : u.idx = s.idx + 1)
      (hbefore : s.idx.toNat + 1 < n + 6) (hlen' : 3 ≤ s.idx.toNat → u.len = BitVec.ofNat 16 (n + 2)) :
      InDec u n (n + 5) := by
    rw [← hsucc, ← hidx'] at hbefore
    refine ⟨hstep'.trans hstep, by rw [hexplen, hn], hmax, by omega, fun hat => hlen' ?_, fun hat => ?_⟩
    · rw [hidx', hsucc] at hat
      omega
    · simp only [Config.frameOverhead] at hat
      omega
  rcases fieldAt_cases hfield with ⟨rfl, hat⟩ | ⟨rfl, hat⟩ | ⟨rfl, hat⟩ | ⟨rfl, hat⟩ | ⟨i, rfl, hat, hi⟩ | ⟨rfl, hat⟩ |
    ⟨rfl, hat⟩
  · refine ⟨_, rfl, check_outcome _ _ ⟨by constructor <;> rfl, rfl, id⟩ rfl rfl fun _ => ?_⟩
    exact going rfl rfl rfl (by omega) (by omega)
  · refine ⟨_, rfl, check_outcome _ _ ⟨by constructor <;> rfl, rfl, id⟩ rfl rfl fun _ => ?_⟩
    exact going rfl rfl rfl (by omega) (by omega)
  · refine ⟨_, rfl, .goesOn ⟨by constructor <;> rfl, rfl, id⟩ ?_⟩
    exact going rfl rfl rfl (by omega) (by omega)
  · refine ⟨_, rfl, check_outcome _ _ ⟨by constructor <;> rfl, rfl, id⟩ rfl rfl fun hok => ?_⟩
    exact going rfl rfl rfl (by omega) fun _ => by simpa using hok
  · have hi' : i < Config.maxPayload := by omega
    refine ⟨{ summed b s with payload := s.payload.set i b hi' }, by
      simp only [decodeField, writePayload, dif_pos hi', summed_payload], .goesOn ⟨by constructor <;> rfl, rfl, id⟩ ?_⟩
    exact going rfl rfl rfl (by omega) fun _ => hlen (by omega)
  · refine ⟨_, rfl, .goesOn ⟨by constructor <;> rfl, rfl, id⟩ ?_⟩
    exact going rfl rfl rfl (by omega) fun _ => hlen (by omega)
  · have hplen : (BitVec.ofNat 8 n).toNat = n := by
      rw [BitVec.toNat_ofNat]
      omega
    simp only [decodeField]
    split
    · refine ⟨_, rfl, .ends ⟨by constructor <;> rfl, rfl, fun _ => by rw [hplen]; exact hmax⟩ ?_⟩
      exact ⟨hstep, hn, by rw [hsucc, hat, Config.frameOverhead], hlen (by omega), hplen⟩
    · exact ⟨_, rfl, .fails _ ⟨by constructor <;> rfl, rfl, id⟩ rfl rfl⟩

theorem KeepsOperation.of_delivered {s u : State} {rx : List RxAnswer} {trace : List Event}
    (h : KeepsOperation { s with rxAnswers := rx, trace := trace } u) : KeepsOperation s u :=
  ⟨h.phase, h.op, h.cmd, h.data, h.mode, h.opbuf, h.status, h.resultValid, h.requests, h.responses, h.resetLine⟩

theorem Continues.of_delivered {s u : State} {rx : List RxAnswer} {trace : List Event}
    (h : Continues { s with rxAnswers := rx, trace := trace } u) : Continues s u :=
  ⟨h.toKeepsOperation.of_delivered, h.explen, h.plen⟩

/-- One read of DEC (R120, R121). -/
theorem decStep_outcome {n : Nat} {s : State} (after : State → State) (h : InDec s n (n + 5)) :
    ∃ t, decStep n after s = .next t ∧ CallOutcome (InDec · n (n + 5)) (InAfterDec · n .dec) after s t := by
  obtain ⟨hstep, hn, hmax, hidx, hlen, hplen⟩ := h
  obtain ⟨field, hfield⟩ :=
    Option.isSome_iff_exists.1 ((fieldAt_isSome_iff n s.idx.toNat).2 (Nat.lt_succ_of_le hidx))
  rw [decStep_of_field hfield]
  rcases rxRead_cases (decodeField n after field) s with ⟨b, rest, _, e⟩ | ⟨rest, _, e⟩ | e <;> rw [e]
  · obtain ⟨t, ht, hout⟩ := decodeField_outcome
      (s := { s with rxAnswers := rest, trace := s.trace ++ [.read (.byte b)] }) after b
      ⟨hstep, hn, hmax, hidx, hlen, hplen⟩ hfield
    refine ⟨t, ht, ?_⟩
    cases hout with
    | goesOn kept going => exact .goesOn kept.of_delivered going
    | ends kept done => exact .ends kept.of_delivered done
    | fails kind kept step pending => exact .fails kind kept.of_delivered step pending
  · exact ⟨_, rfl, .fails _ ⟨by constructor <;> rfl, rfl, id⟩ rfl rfl⟩
  · exact ⟨_, rfl, .goesOn ⟨by constructor <;> rfl, rfl, id⟩ ⟨hstep, hn, hmax, hidx, hlen, hplen⟩⟩

/-! The operation in progress. -/

/-- At its end an operation ends as its rule says. -/
theorem exec_of_atEnd {op : Operation} {s : State} (hp : s.phase = .busy) (h : AtEnd op s) :
    ∃ t, finishPart (operationInstr op s) s = some (s.step, t) ∧ exec (operationInstr op s) s = .next t := by
  obtain ⟨hlast, hsent, hreceived⟩ := h
  have step_eq (sub : SubOp) (h : (subOps op s.mode).getLast? = some sub) : s.step = sub :=
    Option.some.inj (hlast.symm.trans h)
  cases op with
  | encode =>
    have henc := step_eq .enc rfl
    exact ⟨_, by rw [henc]; rfl, by simp [operationInstr, exec_encode_busy hp, henc, hsent henc]⟩
  | decode =>
    have hdec := step_eq .dec rfl
    obtain ⟨_, hidx, _⟩ := hreceived _ _ rfl
    exact ⟨_, by rw [hdec]; rfl, by simp [operationInstr, exec_decode_busy hp, hdec, hidx]⟩
  | extract =>
    have hext := step_eq .ext rfl
    exact ⟨_, by rw [hext]; rfl, by simp [operationInstr, exec_extract_busy hp, hext]⟩
  | setDataMode =>
    have hver := step_eq .ver rfl
    exact ⟨_, by rw [hver]; rfl, by simp only [operationInstr, exec_setDataMode_busy hp, hver]⟩
  | getPassive =>
    have hext := step_eq .ext rfl
    exact ⟨_, by rw [hext]; rfl, by simp only [operationInstr, exec_getPassive_busy hp, hext]⟩
  | getActive =>
    have hext := step_eq .ext rfl
    exact ⟨_, by rw [hext]; rfl, by simp only [operationInstr, exec_getActive_busy hp, hext]⟩
  | sleepSet =>
    rcases mode_cases s.mode with hm | hm
    · have hver := step_eq .ver (by rw [hm]; rfl)
      exact ⟨_, by rw [hver, operationInstr, hm]; rfl, by simp [operationInstr, exec_sleepSet_busy hp, hm, hver]⟩
    · have henc := step_eq .enc (by rw [hm]; rfl)
      exact ⟨_, by rw [henc, operationInstr, hm]; rfl,
        by simp [operationInstr, exec_sleepSet_busy hp, hm, henc, hsent henc]⟩

/-- What a step of the operation in progress does: it goes on, in order and in its rule, or fails, or ends. -/
inductive OperationStep (op : Operation) (s : State) : State → Prop
  | goesOn {t : State} (kept : KeepsOperation s t) (operands : operationInstr op t = operationInstr op s)
      (sequenced : Sequenced t) (plen : s.plen.toNat ≤ Config.maxPayload → t.plen.toNat ≤ Config.maxPayload)
      (order : InOrder op s.mode s.step t.step) : OperationStep op s t
  | fails (kind : ErrorKind) {u : State} (kept : Continues s u) (step : u.step = s.step)
      (pending : u.pending = s.pending) : OperationStep op s (raise kind u)
  | ends {t : State} (atEnd : AtEnd op s) (finish : finishPart (operationInstr op s) s = some (s.step, t)) :
      OperationStep op s t

theorem operationStep_of_write {op : Operation} {s t : State} {c : Byte} {d : Half} {after : State → State}
    (hop : Operation.ofCode s.op = some op) (hframe : framePart (operationInstr op s) = some (c, d, after))
    (hstep : s.step = .enc) (h : CallOutcome (InEnc · c d 6) (InEnc · c d 7) after s t) : OperationStep op s t := by
  cases h with
  | goesOn kept going =>
    have operands := kept.operationInstr_eq op
    refine .goesOn kept.toKeepsOperation operands ?_ kept.plen (.inl (going.1.trans hstep.symm))
    exact sequenced_of_inEnc (by rw [kept.op, hop]) (by rw [operands, hframe]) going
  | @ends u kept done =>
    have operands := kept.operationInstr_eq op
    have hframe' : framePart (operationInstr op u) = some (c, d, after) := by rw [operands, hframe]
    obtain ⟨sequenced, order⟩ := sequenced_of_sent (by rw [kept.op, hop]) hframe' done
    rw [kept.mode, done.1, ← hstep] at order
    have plen : (after u).plen = u.plen := by rcases framePart_after_cases hframe with rfl | ⟨n, rfl⟩ <;> rfl
    exact .goesOn (kept.toKeepsOperation.trans (framePart_after_keeps hframe u))
      ((framePart_after_operationInstr hframe u).trans operands) sequenced (by rw [plen]; exact kept.plen) order
  | fails kind kept step pending => exact .fails kind kept step pending

theorem operationStep_of_read {op : Operation} {s t : State} {n : Nat} {after : State → State}
    (hop : Operation.ofCode s.op = some op) (hrecv : receivePart (operationInstr op s) = some (n, after))
    (hmax : n ≤ Config.maxPayload) (hstep : s.step = .dec)
    (h : CallOutcome (InDec · n (n + 5)) (InAfterDec · n .dec) after s t) : OperationStep op s t := by
  cases h with
  | goesOn kept going =>
    have operands := kept.operationInstr_eq op
    refine .goesOn kept.toKeepsOperation operands ?_ kept.plen (.inl (going.1.trans hstep.symm))
    exact sequenced_of_inDec (by rw [kept.op, hop]) (by rw [operands, hrecv]) going
  | @ends u kept done =>
    have operands := kept.operationInstr_eq op
    have hrecv' : receivePart (operationInstr op u) = some (n, after) := by rw [operands, hrecv]
    obtain ⟨sequenced, order⟩ := sequenced_of_received (by rw [kept.op, hop]) hrecv' hmax done
    rw [kept.mode, done.1, ← hstep] at order
    have plen : (after u).plen = u.plen := by rcases receivePart_after_cases hrecv with rfl | rfl | rfl <;> rfl
    exact .goesOn (kept.toKeepsOperation.trans (receivePart_after_keeps hrecv u))
      ((receivePart_after_operationInstr hrecv u).trans operands) sequenced (by rw [plen]; exact kept.plen) order
  | fails kind kept step pending => exact .fails kind kept step pending

/-- An operation that stands in its rule makes a step of its rule; in particular it does not fault (R28, R29). -/
theorem exec_operationStep {op : Operation} {s : State} (hp : s.phase = .busy)
    (hop : Operation.ofCode s.op = some op) (hseq : Sequenced s) :
    ∃ t, exec (operationInstr op s) s = .next t ∧ OperationStep op s t := by
  rcases sequenced_cases hop hseq with ⟨c, d, after, hframe, henc⟩ | ⟨n, after, hrecv, hdec⟩ | hend
  · obtain ⟨hstep, hidx, _⟩ := id henc
    exact ⟨_, exec_of_framePart hp hframe hstep (Nat.lt_succ_of_le hidx),
      operationStep_of_write hop hframe hstep (encStep_outcome after henc)⟩
  · obtain ⟨hstep, _, hmax, hidx, _⟩ := id hdec
    obtain ⟨t, ht, hout⟩ := decStep_outcome after hdec
    exact ⟨t, by rw [exec_of_receivePart hp hrecv hstep (Nat.lt_succ_of_le hidx), ht],
      operationStep_of_read hop hrecv hmax hstep hout⟩
  · obtain ⟨t, hfin, ht⟩ := exec_of_atEnd hp hend
    exact ⟨t, ht, .ends hend hfin⟩

/-! The wire command in progress is the ENC part of its operation (R76; log 11). -/

theorem admittedData_modeData (m : BitVec 1) : admittedData (modeData m) = true := by
  rcases mode_cases m with rfl | rfl <;> rfl

theorem extractLsb'_modeData (m : BitVec 1) : (modeData m).extractLsb' 0 1 = m := by
  rcases mode_cases m with rfl | rfl <;> rfl

/-- Below index 7 in ENC of a compound operation, CMD and DATA spell the wire command with the same frame part. -/
theorem decodeFrame_of_sequenced {op : Operation} {s : State} (hop : Operation.ofCode s.op = some op)
    (hseq : Sequenced s) (hwire : sendingWireCommand op s = true) :
    ∃ i, decodeFrame (commandFrame s.cmd s.data) = .ok i ∧ framePart i = framePart (operationInstr op s) := by
  simp only [sendingWireCommand, Bool.and_eq_true, Bool.or_eq_true, decide_eq_true_eq] at hwire
  obtain ⟨hcompound, henc, _⟩ := hwire
  rw [decodeFrame_commandFrame]
  rcases hcompound with (rfl | rfl) | rfl <;> simp only [Sequenced, hop] at hseq
  · rcases hseq with ⟨_, _, hcmd, hdata, _⟩ | ⟨hdec, _⟩ | ⟨hver, _⟩
    · rw [if_pos ⟨hcmd, by rw [hdata]; exact admittedData_modeData _⟩]
      exact ⟨_, rfl, by rw [hdata]; rfl⟩
    · simp [henc] at hdec
    · simp [henc] at hver
  · rcases hseq with ⟨_, _, hcmd, hdata, _⟩ | ⟨hdec, _⟩ | ⟨hext, _⟩
    · rw [if_neg (fun h => absurd (hcmd.symm.trans h.1) (by decide)), if_pos ⟨hcmd, hdata⟩]
      exact ⟨_, rfl, rfl⟩
    · simp [henc] at hdec
    · simp [henc] at hext
  · rcases hseq with ⟨_, _, hcmd, hdata, _⟩ | ⟨_, ⟨hdec, _⟩ | ⟨hver, _⟩⟩
    · rw [if_neg (fun h => absurd (hcmd.symm.trans h.1) (by decide)),
        if_neg (fun h => absurd (hcmd.symm.trans h.1) (by decide)),
        if_pos ⟨hcmd, by rw [hdata]; exact admittedData_modeData _⟩]
      exact ⟨_, rfl, by simp only [framePart, operationInstr, hdata, extractLsb'_modeData]⟩
    · simp [henc] at hdec
    · simp [henc] at hver

/-- With no call outstanding, an operation that stands in its rule is what the step runs: a wire command does what the
operation does that it is part of. -/
theorem step_eq_exec_operation {op : Operation} {s u : State} (hp : s.phase = .busy) (hfree : s.pending = none)
    (hr : ¬ ResetDue s) (hu : u = { s with resetLine := s.resetLine.tail }) (hop : Operation.ofCode u.op = some op)
    (hseq : Sequenced u) : step s = exec (operationInstr op u) u := by
  have hp' : u.phase = .busy := by rw [hu]; exact hp
  rcases hwire : sendingWireCommand op u
  · exact step_of_instrInProgress hp hfree hr hu (instrInProgress_operation hop hwire)
  · obtain ⟨i, hi, hframe⟩ := decodeFrame_of_sequenced hop hseq hwire
    rw [step_of_instrInProgress hp hfree hr hu (instrInProgress_wire hop hwire hi)]
    simp only [sendingWireCommand, Bool.and_eq_true, Bool.or_eq_true, decide_eq_true_eq] at hwire
    obtain ⟨hcompound, henc, hidx⟩ := hwire
    have sends : ∃ c d after, framePart (operationInstr op u) = some (c, d, after) := by
      rcases hcompound with (rfl | rfl) | rfl <;> exact ⟨_, _, _, rfl⟩
    obtain ⟨c, d, after, hsends⟩ := sends
    rw [exec_of_framePart hp' (hframe.trans hsends) henc hidx, exec_of_framePart hp' hsends henc hidx]

end Sys2Proof.Machine

/-! ## The invariant (spec/10_state.md R27, R28, R33, R36; spec/60_exceptions.md R202)

Each kind of step keeps `MachineInv`: a reset, an acceptance, and what `OperationStep` says of the operation in
progress. -/

namespace Sys2Proof.Machine

theorem ofCode_isSome_of_sequenced {s : State} (h : Sequenced s) : ∃ op, Operation.ofCode s.op = some op := by
  rcases hop : Operation.ofCode s.op with _ | op
  · simp only [Sequenced, hop] at h
  · exact ⟨op, rfl⟩

/-- With no call outstanding and no reset due, an operation that stands in its rule makes a step of its rule. -/
theorem step_operationStep {s u : State} (hp : s.phase = .busy) (hfree : s.pending = none) (hr : ¬ ResetDue s)
    (hu : u = { s with resetLine := s.resetLine.tail }) (hseq : Sequenced u) :
    ∃ op t, Operation.ofCode u.op = some op ∧ step s = .next t ∧ OperationStep op u t := by
  obtain ⟨op, hop⟩ := ofCode_isSome_of_sequenced hseq
  have hp' : u.phase = .busy := by rw [hu]; exact hp
  obtain ⟨t, ht, hstep⟩ := exec_operationStep hp' hop hseq
  exact ⟨op, t, hop, (step_eq_exec_operation hp hfree hr hu hop hseq).trans ht, hstep⟩

/-- Acceptance starts the first sub-operation of the operation, in its rule (R28, R84). -/
theorem acceptPart_starts {i : Instr} {op : Operation} {s t : State} (hi : acceptedOperation i = some op)
    (h : acceptPart i s = some t) : Sequenced t ∧ (subOps op t.mode).head? = some t.step := by
  cases i with
  | encode c d =>
    cases hi
    cases h
    simp only [Sequenced, beginEnc_op, accept_op, ofCode_code]
    exact ⟨beginEnc_inEnc c d _ _, rfl⟩
  | decode n =>
    cases hi
    simp only [acceptPart, Option.ite_none_right_eq_some] at h
    obtain ⟨hn, ⟨⟩⟩ := h
    simp only [Sequenced, beginDec_op, accept_op, ofCode_code]
    exact ⟨beginDec_inDec hn _ _, rfl⟩
  | extract a =>
    cases hi
    cases h
    simp only [Sequenced, beginExt_op, accept_op, ofCode_code]
    exact ⟨rfl, rfl⟩
  | setDataMode m =>
    cases hi
    cases h
    simp only [Sequenced, acceptSetDataMode, beginEnc_op, accept_op, ofCode_code]
    exact ⟨.inl (beginEnc_inEnc _ _ _ _), rfl⟩
  | getPassive =>
    cases hi
    cases h
    simp only [Sequenced, acceptGetPassive, beginEnc_op, accept_op, ofCode_code]
    exact ⟨.inl (beginEnc_inEnc _ _ _ _), rfl⟩
  | getActive =>
    cases hi
    cases h
    simp only [Sequenced, beginDec_op, accept_op, ofCode_code]
    exact ⟨.inl (beginDec_inDec (n := 26) (by decide) _ _), rfl⟩
  | sleepSet m =>
    cases hi
    cases h
    simp only [Sequenced, acceptSleepSet, beginEnc_op, accept_op, ofCode_code]
    refine ⟨.inl (beginEnc_inEnc _ _ _ _), ?_⟩
    rcases mode_cases m with rfl | rfl <;> rfl
  | wireChangeMode d => cases hi
  | wireReadPassive => cases hi
  | wireSleepSet d => cases hi

/-! The invariant of the next state, by the kind of step. -/

theorem machineInv_of_busy {t : State} (hstatus : t.status ≠ 7) (hplen : t.plen.toNat ≤ Config.maxPayload)
    (hvalid : t.resultValid = false) (hp : t.phase = .busy) (hseq : Sequenced t) : MachineInv t where
  status := hstatus
  plen := hplen
  resultValid h := by rw [hvalid] at h; cases h
  pending _ := hp
  sequenced _ := hseq

theorem machineInv_of_idle {t : State} (hstatus : t.status ≠ 7) (hplen : t.plen.toNat ≤ Config.maxPayload)
    (hvalid : t.resultValid = true → t.status = 0 ∧
      Operation.ofCode t.op ∈ [some .decode, some .extract, some .getPassive, some .getActive])
    (hp : t.phase = .idle) (hfree : t.pending = none) : MachineInv t where
  status := hstatus
  plen := hplen
  resultValid h := ⟨hp, hvalid h⟩
  pending h := absurd hfree h
  sequenced h := by rw [hp] at h; cases h

theorem raise_machineInv (kind : ErrorKind) {s : State} (hplen : s.plen.toNat ≤ Config.maxPayload)
    (hfree : s.pending = none) : MachineInv (raise kind s) :=
  machineInv_of_idle (by cases kind <;> simp [ErrorKind.code]) hplen nofun rfl hfree

theorem finishPart_machineInv {op : Operation} {s t : State} {sub : SubOp} (hop : Operation.ofCode s.op = some op)
    (hplen : s.plen.toNat ≤ Config.maxPayload) (hfree : s.pending = none)
    (h : finishPart (operationInstr op s) s = some (sub, t)) : MachineInv t := by
  rcases finishPart_cases h with rfl | rfl | ⟨⟨n, hi⟩, rfl⟩ | ⟨hi, m, rfl⟩
  · exact raise_machineInv _ hplen hfree
  · exact machineInv_of_idle (by simp) hplen nofun rfl hfree
  · cases acceptedOperation_eq hi rfl
    exact machineInv_of_idle (by simp) hplen (fun _ => ⟨rfl, by simp [hop]⟩) rfl hfree
  · have hgives : Operation.ofCode s.op ∈ [some .decode, some .extract, some .getPassive, some .getActive] := by
      rw [hop]
      rcases hi with ⟨a, hi⟩ | hi | hi <;> cases acceptedOperation_eq hi rfl <;> decide
    exact machineInv_of_idle (by simp) hplen (fun _ => ⟨rfl, hgives⟩) rfl hfree

/-- In BUSY no result is valid (R36). -/
theorem MachineInv.resultValid_eq_false {s : State} (h : MachineInv s) (hp : s.phase = .busy) :
    s.resultValid = false := by
  rcases hv : s.resultValid
  · rfl
  · obtain ⟨hidle, _⟩ := h.resultValid hv
    rw [hp] at hidle
    cases hidle

theorem OperationStep.machineInv {op : Operation} {s t : State} (h : OperationStep op s t) (hinv : MachineInv s)
    (hp : s.phase = .busy) (hfree : s.pending = none) (hop : Operation.ofCode s.op = some op) : MachineInv t := by
  cases h with
  | goesOn kept _ sequenced plen _ =>
    exact machineInv_of_busy (by rw [kept.status]; exact hinv.status) (plen hinv.plen)
      (by rw [kept.resultValid, hinv.resultValid_eq_false hp]) (by rw [kept.phase, hp]) sequenced
  | fails kind kept _ pending => exact raise_machineInv kind (kept.plen hinv.plen) (pending.trans hfree)
  | ends _ finish => exact finishPart_machineInv hop hinv.plen hfree finish

theorem takeReset_machineInv (s : State) : MachineInv (takeReset s) :=
  machineInv_of_idle (by simp [State.reset]) (by simp [State.reset]) (by simp [State.reset]) rfl rfl

theorem acceptPart_machineInv {i : Instr} {s t : State} (hinv : MachineInv s) (h : acceptPart i s = some t) :
    MachineInv t := by
  obtain ⟨op, hi, hacc⟩ := acceptPart_accepts h
  exact machineInv_of_busy (by rw [hacc.status]; exact hinv.status) (by rw [hacc.plen]; exact hinv.plen)
    hacc.resultValid hacc.phase (acceptPart_starts hi h).1

/-- The invariant does not speak of the requests or of the reset input. -/
theorem MachineInv.of_input {s : State} (h : MachineInv s) (requests : List Request) (line : List Bool) :
    MachineInv { s with requests := requests, resetLine := line } :=
  ⟨h.status, h.plen, h.resultValid, h.pending, h.sequenced⟩

/-- Settles O56: the invariant after a reset, after a wait, after an acceptance, and after a step of the operation. -/
theorem everyStepKeepsTheInvariant : Obligations.EveryStepKeepsTheInvariant := by
  intro s t hinv h
  by_cases hr : ResetDue s
  · obtain ⟨rest, hline⟩ := hr
    rw [step_of_reset hline] at h
    cases h
    exact takeReset_machineInv _
  · obtain ⟨s', hs', hcases⟩ := step_cases hr h
    have hinv' : MachineInv s' := by
      rw [hs']
      exact hinv.of_input s.requests _
    rcases hcases with ⟨rfl, _⟩ | ⟨_, later, _, _, _, _, haccept⟩ | ⟨_, hbusy, hfree, _, _⟩
    · exact hinv'
    · exact acceptPart_machineInv (hinv'.of_input later s'.resetLine) haccept
    · have hbusy' : s'.phase = .busy := by rw [hs']; exact hbusy
      have hfree' : s'.pending = none := by rw [hs']; exact hfree
      obtain ⟨op, t', hop, ht', hstep⟩ := step_operationStep hbusy hfree hr hs' (hinv'.sequenced hbusy')
      cases h.symm.trans ht'
      exact hstep.machineInv hinv' hbusy' hfree' hop

/-! No fault. -/

/-- Acceptance answers a next state or refuses (R81, R84). -/
theorem exec_idle_safe {s : State} (hp : s.phase = .idle) (i : Instr) : Safe (exec i s) := by
  intro f hf
  cases i with
  | decode n =>
    simp only [exec, execDecode, hp] at hf
    split at hf <;> cases hf
  | _ =>
    simp only [exec, execEncode, execExtract, execSetDataMode, execGetPassive, execGetActive, execSleepSet,
      execWireChangeMode, execWireReadPassive, execWireSleepSet, hp] at hf
    cases hf

/-- In IDLE no step faults, whatever is offered. -/
theorem step_idle_safe {s : State} (hp : s.phase = .idle) (hr : ¬ ResetDue s) : Safe (step s) := by
  rcases hreq : s.requests with _ | ⟨r, later⟩
  · rw [step_of_no_request hp hr rfl hreq]
    exact nofun
  · rcases hd : decodeRequest r with e | i
    · rw [step_of_refused_request hp hr hreq hd]
      exact nofun
    · rw [step_of_request hp hr rfl hreq hd]
      refine exec_idle_safe ?_ i
      exact hp

/-- Settles O57: in IDLE nothing faults, and in BUSY the operation makes a step of its rule. -/
theorem invariantStatesDoNotFault : Obligations.InvariantStatesDoNotFault := by
  intro s hinv
  by_cases hr : ResetDue s
  · obtain ⟨rest, hline⟩ := hr
    rw [step_of_reset hline]
    exact nofun
  · rcases hp : s.phase
    · exact step_idle_safe hp hr
    · by_cases hfree : s.pending = none
      · obtain ⟨op, t, _, ht, _⟩ := step_operationStep hp hfree hr rfl (hinv.sequenced hp)
        rw [ht]
        exact nofun
      · rw [step_of_outstanding hp hr rfl hfree]
        exact nofun

/-! The order of the sub-operations. -/

theorem code_injective {op op' : Operation} (h : op.code = op'.code) : op = op' := by
  have := ofCode_code op
  rw [h, ofCode_code] at this
  exact (Option.some.inj this).symm

theorem enc_mem_subOps {op : Operation} {s : State} {part : Byte × Half × (State → State)}
    (h : framePart (operationInstr op s) = some part) : .enc ∈ subOps op s.mode := by
  cases op with
  | decode => cases h
  | extract => cases h
  | getActive => cases h
  | sleepSet => rcases mode_cases s.mode with hm | hm <;> simp [subOps, hm]
  | _ => simp [subOps]

theorem dec_mem_subOps {op : Operation} {s : State} {part : Nat × (State → State)}
    (h : receivePart (operationInstr op s) = some part) : .dec ∈ subOps op s.mode := by
  cases op with
  | encode => cases h
  | extract => cases h
  | sleepSet =>
    simp only [operationInstr, receivePart, Option.ite_none_right_eq_some] at h
    simp [subOps, h.1]
  | _ => simp [subOps]

/-- STEP is one of the sub-operations of the operation in progress (R28). -/
theorem step_mem_subOps {op : Operation} {s : State} (hop : Operation.ofCode s.op = some op) (hseq : Sequenced s) :
    s.step ∈ subOps op s.mode := by
  rcases sequenced_cases hop hseq with ⟨c, d, after, hframe, henc⟩ | ⟨n, after, hrecv, hdec⟩ | hend
  · rw [henc.1]
    exact enc_mem_subOps hframe
  · rw [hdec.1]
    exact dec_mem_subOps hrecv
  · exact List.mem_of_getLast? hend.last

theorem finishPart_registers {i : Instr} {s t : State} {sub : SubOp} (h : finishPart i s = some (sub, t)) :
    t.op = s.op ∧ t.mode = s.mode ∧ t.step = s.step := by
  rcases finishPart_cases h with rfl | rfl | ⟨_, rfl⟩ | ⟨_, m, rfl⟩ <;> exact ⟨rfl, rfl, rfl⟩

theorem raise_status_ne_none (kind : ErrorKind) (s : State) : (raise kind s).status ≠ 0 := by
  cases kind <;> simp [ErrorKind.code]

/-- What a step of the operation in progress does to OP, MODE and STEP, and where it can succeed. -/
theorem OperationStep.follows {op : Operation} {s t : State} (h : OperationStep op s t) (hp : s.phase = .busy) :
    t.op = s.op ∧ t.mode = s.mode ∧ InOrder op s.mode s.step t.step ∧
      (t.phase = .idle → t.status = 0 → (subOps op s.mode).getLast? = some s.step) := by
  cases h with
  | goesOn kept _ _ _ order =>
    exact ⟨kept.op, kept.mode, order, by simp [kept.phase, hp]⟩
  | @fails kind u kept step _ =>
    exact ⟨kept.op, kept.mode, .inl step, fun _ hstatus => absurd hstatus (raise_status_ne_none kind u)⟩
  | ends atEnd finish =>
    obtain ⟨hop, hmode, hstep⟩ := finishPart_registers finish
    exact ⟨hop, hmode, .inl hstep, fun _ _ => atEnd.last⟩

/-- Settles O59: acceptance starts the first sub-operation, and a step of the operation moves on in order. -/
theorem subOperationsFollowInOrder : Obligations.SubOperationsFollowInOrder := by
  intro s t op hinv hr h htop
  obtain ⟨s', hs', hcases⟩ := step_cases hr h
  have hinv' : MachineInv s' := by
    rw [hs']
    exact hinv.of_input s.requests _
  have hphase : s'.phase = s.phase := by rw [hs']
  have hopreg : s'.op = s.op := by rw [hs']
  have hmode : s'.mode = s.mode := by rw [hs']
  have hstep : s'.step = s.step := by rw [hs']
  rw [← hphase, ← hopreg, ← hmode, ← hstep]
  rcases hcases with ⟨rfl, _⟩ | ⟨_, later, i, hidle, _, _, haccept⟩ | ⟨_, hbusy, hfree, _, _⟩
  · refine ⟨by simp +contextual, fun hbusy => ⟨htop, rfl, ?_, .inl rfl, ?_⟩⟩
    · exact step_mem_subOps (by rw [htop, ofCode_code]) (hinv'.sequenced hbusy)
    · simp [hbusy]
  · obtain ⟨op', hi, hacc⟩ := acceptPart_accepts haccept
    cases code_injective (htop.symm.trans hacc.op)
    refine ⟨fun _ _ => (acceptPart_starts hi haccept).2, fun hbusy => ?_⟩
    rw [hphase, hidle] at hbusy
    cases hbusy
  · have hbusy' : s'.phase = .busy := hphase.trans hbusy
    have hseq := hinv'.sequenced hbusy'
    obtain ⟨op', t', hop', ht', hmade⟩ := step_operationStep hbusy hfree hr hs' hseq
    cases h.symm.trans ht'
    obtain ⟨hsameop, hsamemode, order, hlast⟩ := hmade.follows hbusy'
    cases code_injective (htop.symm.trans (hsameop.trans (ofCode_eq_some hop')))
    refine ⟨by simp [hbusy'], fun _ => ?_⟩
    exact ⟨ofCode_eq_some hop', hsamemode.symm, step_mem_subOps hop' hseq, order, hlast⟩

end Sys2Proof.Machine

/-! ## Two runs with the same input (spec/10_state.md R39, R40; spec/60_exceptions.md R211; spec/70_reset_and_hazards.md R233)

Two blocks that stand at the same point, whatever their other registers hold, make the same step and stand at the same
point after it. In IDLE any two states do. In BUSY the registers that count are OP with its operands and, in a transfer,
what it has sent or received so far. -/

namespace Sys2Proof.Machine

/-! Conduct: what two steps show is put together from what their parts show. -/

theorem SameConduct.trans {s t u v w x : State} (h₁ : SameConduct s t u v) (h₂ : SameConduct u v w x) :
    SameConduct s t w x where
  phase := h₂.phase
  input := h₂.input
  calls := by
    obtain ⟨calls₁, hu, hv⟩ := h₁.calls
    obtain ⟨calls₂, hw, hx⟩ := h₂.calls
    exact ⟨calls₁ ++ calls₂, by rw [hw, hu, List.append_assoc], by rw [hx, hv, List.append_assoc]⟩
  responses := by
    obtain ⟨given₁, hu, hv⟩ := h₁.responses
    obtain ⟨given₂, hw, hx⟩ := h₂.responses
    exact ⟨given₁ ++ given₂, by rw [hw, hu, List.append_assoc], by rw [hx, hv, List.append_assoc]⟩

theorem sameConduct_refl {u v : State} (hp : u.phase = v.phase) (hin : SameInput u v) : SameConduct u v u v :=
  ⟨hp, hin, ⟨[], by simp, by simp⟩, ⟨[], by simp, by simp⟩⟩

/-- Updates of the working registers show nothing. -/
theorem sameConduct_of_silent {u v u' v' : State} (h : SameConduct u v u v) (htu : SameTransport u u')
    (hku : KeepsOperation u u') (htv : SameTransport v v') (hkv : KeepsOperation v v') : SameConduct u v u' v' where
  phase := by rw [hku.phase, hkv.phase, h.phase]
  input := ⟨by rw [hku.requests, hkv.requests, h.input.requests], by rw [htu.txAnswers, htv.txAnswers, h.input.txAnswers],
    by rw [htu.rxAnswers, htv.rxAnswers, h.input.rxAnswers], by rw [htu.pending, htv.pending, h.input.pending],
    by rw [hku.resetLine, hkv.resetLine, h.input.resetLine]⟩
  calls := ⟨[], by simp [htu.trace], by simp [htv.trace]⟩
  responses := ⟨[], by simp [hku.responses], by simp [hkv.responses]⟩

theorem sameConduct_raise {u v : State} (h : SameConduct u v u v) (kind : ErrorKind) :
    SameConduct u v (raise kind u) (raise kind v) :=
  ⟨rfl, ⟨h.input.requests, h.input.txAnswers, h.input.rxAnswers, h.input.pending, h.input.resetLine⟩,
    ⟨[], by simp, by simp⟩, ⟨[_], rfl, rfl⟩⟩

theorem sameConduct_complete {u v : State} (h : SameConduct u v u v) (result : Result) :
    SameConduct u v (complete result u) (complete result v) :=
  ⟨rfl, ⟨h.input.requests, h.input.txAnswers, h.input.rxAnswers, h.input.pending, h.input.resetLine⟩,
    ⟨[], by simp, by simp⟩, ⟨[_], rfl, rfl⟩⟩

/-- A call that returns the same answer to both. -/
theorem sameConduct_call {u v : State} (h : SameConduct u v u v) {tx tx' : List TxAnswer} {rx rx' : List RxAnswer}
    (htx : tx = tx') (hrx : rx = rx') (e : Event) :
    SameConduct u v { u with txAnswers := tx, rxAnswers := rx, trace := u.trace ++ [e] }
      { v with txAnswers := tx', rxAnswers := rx', trace := v.trace ++ [e] } :=
  ⟨h.phase, ⟨h.input.requests, htx, hrx, h.input.pending, h.input.resetLine⟩, ⟨[e], rfl, rfl⟩, ⟨[], by simp, by simp⟩⟩

/-- The same call, answered to neither. -/
theorem sameConduct_outstanding {u v : State} (h : SameConduct u v u v) {tx tx' : List TxAnswer}
    {rx rx' : List RxAnswer} (htx : tx = tx') (hrx : rx = rx') (c : Call) :
    SameConduct u v { u with txAnswers := tx, rxAnswers := rx, pending := some c }
      { v with txAnswers := tx', rxAnswers := rx', pending := some c } :=
  ⟨h.phase, ⟨h.input.requests, htx, hrx, rfl, h.input.resetLine⟩, ⟨[], by simp, by simp⟩, ⟨[], by simp, by simp⟩⟩

/-! The registers that count in BUSY. -/

/-- DEC has received the same so far: EXPLEN, the high byte of LEN and of RXCHK from where they are there, and the payload
bytes (R121). -/
structure SameReception (u v : State) : Prop where
  explen : u.explen = v.explen
  len : 3 ≤ u.idx.toNat → hiByte u.len = hiByte v.len
  rxchk : u.explen.toNat + 5 ≤ u.idx.toNat → hiByte u.rxchk = hiByte v.rxchk
  payload : ∀ j, j < u.explen.toNat → j + 4 < u.idx.toNat → u.payload[j]? = v.payload[j]?

/-- A transfer has come equally far: STEP, IDX and SUM, and past ENC what was received. -/
structure SameProgress (u v : State) : Prop where
  step : u.step = v.step
  idx : u.idx = v.idx
  sum : u.sum = v.sum
  reception : u.step ≠ .enc → SameReception u v

/-- The same operation is in progress at the same point of its rule. EXTRACT makes no transfer, so that its working
registers do not count. -/
structure SamePoint (op : Operation) (u v : State) : Prop where
  left : Operation.ofCode u.op = some op
  right : Operation.ofCode v.op = some op
  operands : operationInstr op u = operationInstr op v
  progress : op ≠ .extract → SameProgress u v
  sequencedLeft : Sequenced u
  sequencedRight : Sequenced v
  noResultLeft : u.resultValid = false
  noResultRight : v.resultValid = false

/-- Two parts of a step show the same, and leave a transfer equally far where they do not end it. -/
structure PartsAlike (u v u' v' : State) : Prop where
  conduct : SameConduct u v u' v'
  progress : u'.phase = .busy → SameProgress u' v'

theorem PartsAlike.after {u v u₁ v₁ u' v' : State} (h₂ : PartsAlike u₁ v₁ u' v') (h₁ : SameConduct u v u₁ v₁) :
    PartsAlike u v u' v' :=
  ⟨h₁.trans h₂.conduct, h₂.progress⟩

theorem Agree.imp {R Q : State → State → Prop} {o p : Result3} (h : Agree R o p) (himp : ∀ u v, R u v → Q u v) :
    Agree Q o p := by
  cases o <;> cases p <;> simp only [Agree] at h ⊢
  · exact himp _ _ h
  · exact h
  · exact h

theorem partsAlike_raise {u v : State} (h : SameConduct u v u v) (kind : ErrorKind) :
    PartsAlike u v (raise kind u) (raise kind v) :=
  ⟨sameConduct_raise h kind, nofun⟩

theorem partsAlike_complete {u v : State} (h : SameConduct u v u v) (result : Result) :
    PartsAlike u v (complete result u) (complete result v) :=
  ⟨sameConduct_complete h result, nofun⟩

/-- The transport is no part of how far a transfer has come. -/
theorem SameProgress.of_transport {u v : State} (h : SameProgress u v) (tx tx' : List TxAnswer)
    (rx rx' : List RxAnswer) (trace trace' : List Event) (p p' : Option Call) :
    SameProgress { u with txAnswers := tx, rxAnswers := rx, trace := trace, pending := p }
      { v with txAnswers := tx', rxAnswers := rx', trace := trace', pending := p' } :=
  ⟨h.step, h.idx, h.sum, fun hstep => have hrec := h.reception hstep
    ⟨hrec.explen, hrec.len, hrec.rxchk, hrec.payload⟩⟩

/-! The calls of both get the same answers (R34). -/

theorem txWrite_alike {u v : State} {onOk : State → State} (b : Byte) (h : SameConduct u v u v)
    (hprog : SameProgress u v)
    (hok : ∀ rest,
      PartsAlike { u with txAnswers := rest, trace := u.trace ++ [.write b .ok] }
        { v with txAnswers := rest, trace := v.trace ++ [.write b .ok] }
        (onOk { u with txAnswers := rest, trace := u.trace ++ [.write b .ok] })
        (onOk { v with txAnswers := rest, trace := v.trace ++ [.write b .ok] })) :
    PartsAlike u v (txWrite b onOk u) (txWrite b onOk v) := by
  have outstanding (rest : List TxAnswer) :
      PartsAlike u v { u with txAnswers := rest, pending := some (.write b) }
        { v with txAnswers := rest, pending := some (.write b) } :=
    ⟨sameConduct_outstanding h rfl h.input.rxAnswers _, fun _ => hprog.of_transport _ _ _ _ _ _ _ _⟩
  rcases htx : u.txAnswers with _ | ⟨_ | _ | _, rest⟩ <;> have htx' := h.input.txAnswers.symm.trans htx
  · rw [txWrite_unanswered b onOk (.inr ⟨htx, rfl⟩), txWrite_unanswered b onOk (.inr ⟨htx', rfl⟩)]
    exact outstanding []
  · rw [txWrite_ok b onOk htx, txWrite_ok b onOk htx']
    exact (hok rest).after (sameConduct_call h rfl h.input.rxAnswers _)
  · rw [txWrite_fail b onOk htx, txWrite_fail b onOk htx']
    have failed := sameConduct_call h (tx := rest) rfl h.input.rxAnswers (.write b .fail)
    exact (partsAlike_raise (sameConduct_refl failed.phase failed.input) _).after failed
  · rw [txWrite_never b onOk htx, txWrite_never b onOk htx']
    exact outstanding rest

theorem rxRead_alike {u v : State} {onByte : Byte → State → Result3} (h : SameConduct u v u v)
    (hprog : SameProgress u v)
    (hbyte : ∀ b rest,
      Agree
        (PartsAlike { u with rxAnswers := rest, trace := u.trace ++ [.read (.byte b)] }
          { v with rxAnswers := rest, trace := v.trace ++ [.read (.byte b)] })
        (onByte b { u with rxAnswers := rest, trace := u.trace ++ [.read (.byte b)] })
        (onByte b { v with rxAnswers := rest, trace := v.trace ++ [.read (.byte b)] })) :
    Agree (PartsAlike u v) (rxRead onByte u) (rxRead onByte v) := by
  have outstanding (rest : List RxAnswer) :
      PartsAlike u v { u with rxAnswers := rest, pending := some .read }
        { v with rxAnswers := rest, pending := some .read } :=
    ⟨sameConduct_outstanding h h.input.txAnswers rfl _, fun _ => hprog.of_transport _ _ _ _ _ _ _ _⟩
  rcases hrx : u.rxAnswers with _ | ⟨b | _ | _, rest⟩ <;> have hrx' := h.input.rxAnswers.symm.trans hrx
  · rw [rxRead_unanswered onByte (.inr ⟨hrx, rfl⟩), rxRead_unanswered onByte (.inr ⟨hrx', rfl⟩)]
    exact outstanding []
  · rw [rxRead_byte onByte hrx, rxRead_byte onByte hrx']
    exact (hbyte b rest).imp fun _ _ alike => alike.after (sameConduct_call h h.input.txAnswers rfl _)
  · rw [rxRead_fail onByte hrx, rxRead_fail onByte hrx']
    have failed := sameConduct_call h h.input.txAnswers (rx := rest) rfl (.read .fail)
    exact (partsAlike_raise (sameConduct_refl failed.phase failed.input) _).after failed
  · rw [rxRead_never onByte hrx, rxRead_never onByte hrx']
    exact outstanding rest

/-! ENC of both. -/

theorem sameProgress_of_enc {u v : State} (hu : u.step = .enc) (hv : v.step = .enc) (hidx : u.idx = v.idx)
    (hsum : u.sum = v.sum) : SameProgress u v :=
  ⟨hu.trans hv.symm, hidx, hsum, fun h => absurd hu h⟩

/-- DEC starts with nothing received. -/
theorem sameProgress_beginDec (n : Byte) (u v : State) : SameProgress (beginDec n u) (beginDec n v) :=
  ⟨rfl, rfl, rfl, fun _ => ⟨rfl, by simp, by simp, by simp⟩⟩

theorem framePart_after_alike {i : Instr} {c : Byte} {d : Half} {after : State → State}
    (hframe : framePart i = some (c, d, after)) {u v : State} (h : SameConduct u v u v) (hprog : SameProgress u v) :
    PartsAlike u v (after u) (after v) := by
  refine ⟨sameConduct_of_silent h (framePart_after_sameTransport hframe u) (framePart_after_keeps hframe u)
    (framePart_after_sameTransport hframe v) (framePart_after_keeps hframe v), fun _ => ?_⟩
  rcases framePart_after_cases hframe with rfl | ⟨n, rfl⟩
  · exact hprog
  · exact sameProgress_beginDec n u v

/-- What ENC does once its write is accepted (R101). -/
def afterWrite (c : Byte) (d : Half) (after : State → State) (s : State) : State :=
  if s.idx = 6 then after { s with sum := encoderSum c d s.sum s.idx.toNat, idx := s.idx + 1 }
  else { s with sum := encoderSum c d s.sum s.idx.toNat, idx := s.idx + 1 }

theorem encStep_eq_txWrite (c : Byte) (d : Half) (after : State → State) (s : State) :
    encStep c d after s = txWrite (encoderByte c d s.sum s.idx.toNat) (afterWrite c d after) s := rfl

theorem afterWrite_alike {i : Instr} {c : Byte} {d : Half} {after : State → State}
    (hframe : framePart i = some (c, d, after)) {u v : State} (h : SameConduct u v u v) (hprog : SameProgress u v)
    (henc : u.step = .enc) : PartsAlike u v (afterWrite c d after u) (afterWrite c d after v) := by
  have advanced (x : Byte) (y : Half) :
      PartsAlike u v { u with sum := y, idx := x } { v with sum := y, idx := x } :=
    ⟨sameConduct_of_silent h ⟨rfl, rfl, rfl, rfl⟩ (by constructor <;> rfl) ⟨rfl, rfl, rfl, rfl⟩
      (by constructor <;> rfl), fun _ => sameProgress_of_enc henc (hprog.step.symm.trans henc) rfl rfl⟩
  unfold afterWrite
  rw [← hprog.sum, ← hprog.idx]
  obtain ⟨conduct, _⟩ := advanced (u.idx + 1) (encoderSum c d u.sum u.idx.toNat)
  split
  · refine (framePart_after_alike hframe (sameConduct_refl conduct.phase conduct.input) ?_).after conduct
    exact sameProgress_of_enc henc (hprog.step.symm.trans henc) rfl rfl
  · exact advanced _ _

/-- The write of both is the same, and so is what follows it (R101). -/
theorem encStep_alike {i : Instr} {c : Byte} {d : Half} {after : State → State}
    (hframe : framePart i = some (c, d, after)) {u v : State} (h : SameConduct u v u v) (hprog : SameProgress u v)
    (henc : u.step = .enc) : PartsAlike u v (encStep c d after u) (encStep c d after v) := by
  rw [encStep_eq_txWrite, encStep_eq_txWrite, ← hprog.sum, ← hprog.idx]
  refine txWrite_alike _ h hprog fun rest => ?_
  have called := sameConduct_call h (tx := rest) rfl h.input.rxAnswers
    (.write (encoderByte c d u.sum u.idx.toNat) .ok)
  refine afterWrite_alike hframe (sameConduct_refl called.phase called.input) ?_ henc
  exact hprog.of_transport _ _ _ _ _ _ _ _

/-! DEC of both. -/

theorem receivePart_after_alike {i : Instr} {n : Nat} {after : State → State}
    (hrecv : receivePart i = some (n, after)) {u v : State} (h : SameConduct u v u v) (hprog : SameProgress u v)
    (hdec : u.step = .dec) : PartsAlike u v (after u) (after v) := by
  refine ⟨sameConduct_of_silent h (receivePart_after_sameTransport hrecv u) (receivePart_after_keeps hrecv u)
    (receivePart_after_sameTransport hrecv v) (receivePart_after_keeps hrecv v), fun _ => ?_⟩
  have hrec := hprog.reception (by rw [hdec]; decide)
  have moved : SameReception (after u) (after v) := by
    rcases receivePart_after_cases hrecv with rfl | rfl | rfl <;>
      exact ⟨hrec.explen, hrec.len, hrec.rxchk, hrec.payload⟩
  rcases receivePart_after_cases hrecv with rfl | rfl | rfl
  · exact hprog
  · exact ⟨rfl, hprog.idx, hprog.sum, fun _ => moved⟩
  · exact ⟨rfl, hprog.idx, hprog.sum, fun _ => moved⟩

/-- The check of both passes, or fails (R121). -/
theorem check_alike {u v u' v' : State} (ok : Bool) (kind : ErrorKind) (h : PartsAlike u v u' v') :
    PartsAlike u v (check ok kind u') (check ok kind v') := by
  unfold check
  split
  · exact h
  · exact (partsAlike_raise (sameConduct_refl h.conduct.phase h.conduct.input) kind).after h.conduct

theorem setLo_congr {x y : Half} (h : hiByte x = hiByte y) (b : Byte) : setLo x b = setLo y b := by
  rw [setLo, setLo, h]

@[simp] theorem hiByte_setHi (x : Half) (b : Byte) : hiByte (setHi x b) = b := hiByte_be16 b (loByte x)

/-- Both are one byte further in DEC, and what that byte completes is the same. -/
theorem nextByte_alike {u v : State} (h : SameConduct u v u v) (hprog : SameProgress u v) (hbound : u.idx.toNat < 255)
    (hexplen : u.explen = v.explen) {sum sum' len len' rxchk rxchk' : Half}
    {payload payload' : Vector Byte Config.maxPayload} {plen plen' : Byte} (hsum : sum = sum')
    (hlen : 2 ≤ u.idx.toNat → hiByte len = hiByte len')
    (hrxchk : u.explen.toNat + 4 ≤ u.idx.toNat → hiByte rxchk = hiByte rxchk')
    (hpayload : ∀ j, j < u.explen.toNat → j + 4 ≤ u.idx.toNat → payload[j]? = payload'[j]?) :
    PartsAlike u v
      { u with sum := sum, len := len, rxchk := rxchk, payload := payload, plen := plen, idx := u.idx + 1 }
      { v with sum := sum', len := len', rxchk := rxchk', payload := payload', plen := plen', idx := v.idx + 1 } := by
  have hsucc : (u.idx + 1).toNat = u.idx.toNat + 1 := toNat_add_one hbound
  refine ⟨sameConduct_of_silent h ⟨rfl, rfl, rfl, rfl⟩ (by constructor <;> rfl) ⟨rfl, rfl, rfl, rfl⟩
    (by constructor <;> rfl), fun _ => ⟨hprog.step, by rw [hprog.idx], hsum, fun _ => ⟨hexplen, ?_, ?_, ?_⟩⟩⟩
  · exact fun hat => hlen (by rw [hsucc] at hat; omega)
  · exact fun hat => hrxchk (by rw [hsucc] at hat; exact Nat.le_of_succ_le_succ hat)
  · exact fun j hj hat => hpayload j hj (by rw [hsucc] at hat; omega)

/-- DEC does the same with the same byte (R121). -/
theorem decodeField_alike {i : Instr} {n : Nat} {after : State → State} (hrecv : receivePart i = some (n, after))
    {u v : State} (h : SameConduct u v u v) (hprog : SameProgress u v) (hp : u.phase = .busy) (hdec : InDec u n (n + 5))
    {field : FrameField} (hfield : fieldAt n u.idx.toNat = some field) (b : Byte) :
    Agree (PartsAlike u v) (decodeField n after field b u) (decodeField n after field b v) := by
  obtain ⟨hstep, rfl, hmax, hidx, -⟩ := hdec
  have hmax' : u.explen.toNat ≤ 26 := hmax
  obtain ⟨hexplen, hlen, hrxchk, hpayload⟩ := hprog.reception (by rw [hstep]; decide)
  have hsummed : addByte u.sum b = addByte v.sum b := by rw [hprog.sum]
  have further {sum sum' len len' rxchk rxchk' : Half} {payload payload' : Vector Byte Config.maxPayload}
      {plen plen' : Byte} := nextByte_alike h hprog (by omega) hexplen (sum := sum) (sum' := sum') (len := len)
        (len' := len') (rxchk := rxchk) (rxchk' := rxchk') (payload := payload) (payload' := payload') (plen := plen)
        (plen' := plen')
  rcases fieldAt_cases hfield with ⟨rfl, hat⟩ | ⟨rfl, hat⟩ | ⟨rfl, hat⟩ | ⟨rfl, hat⟩ | ⟨k, rfl, hat, hk⟩ | ⟨rfl, hat⟩ |
    ⟨rfl, hat⟩
  · exact check_alike _ _ (further hsummed (by omega) (by omega) (by omega))
  · exact check_alike _ _ (further hsummed (by omega) (by omega) (by omega))
  · exact further hsummed (by simp) (by omega) (by omega)
  · simp only [decodeField, ← setLo_congr (hlen (by omega)) b]
    exact check_alike _ _ (further hsummed (fun _ => rfl) (by omega) (by omega))
  · have hk' : k < Config.maxPayload := by omega
    simp only [decodeField, writePayload, dif_pos hk']
    refine further hsummed (fun _ => hlen (by omega)) (by omega) fun j hj _ => ?_
    by_cases hjk : k = j
    · subst hjk
      simp
    · rw [summed_payload, summed_payload, Vector.getElem?_set_ne hk' hjk, Vector.getElem?_set_ne hk' hjk]
      exact hpayload j hj (by omega)
  · exact further hprog.sum (fun _ => hlen (by omega)) (by simp) fun j hj _ => hpayload j hj (by omega)
  · have hset := setLo_congr (hrxchk (by omega)) b
    have received (p p' : Byte) : PartsAlike u v { u with rxchk := setLo u.rxchk b, idx := u.idx + 1, plen := p }
        { v with rxchk := setLo u.rxchk b, idx := v.idx + 1, plen := p' } :=
      further hprog.sum (fun _ => hlen (by omega)) (fun _ => rfl) fun j hj _ => hpayload j hj (by omega)
    simp only [decodeField, ← hset]
    by_cases hsame : setLo u.rxchk b = u.sum
    · rw [if_pos hsame, if_pos (hsame.trans hprog.sum)]
      obtain ⟨conduct, progress⟩ := received (BitVec.ofNat 8 u.explen.toNat) (BitVec.ofNat 8 u.explen.toNat)
      have ready := sameConduct_refl conduct.phase conduct.input
      exact (receivePart_after_alike hrecv ready (progress hp) hstep).after conduct
    · rw [if_neg hsame, if_neg fun hv => hsame (hv.trans hprog.sum.symm)]
      obtain ⟨conduct, _⟩ := received u.plen v.plen
      exact (partsAlike_raise (sameConduct_refl conduct.phase conduct.input) _).after conduct

/-- The read of both is the same, and so is what DEC does with its byte (R120, R121). -/
theorem decStep_alike {i : Instr} {n : Nat} {after : State → State} (hrecv : receivePart i = some (n, after))
    {u v : State} (h : SameConduct u v u v) (hprog : SameProgress u v) (hp : u.phase = .busy)
    (hdec : InDec u n (n + 5)) : Agree (PartsAlike u v) (decStep n after u) (decStep n after v) := by
  obtain ⟨field, hfield⟩ :=
    Option.isSome_iff_exists.1 ((fieldAt_isSome_iff n u.idx.toNat).2 (Nat.lt_succ_of_le hdec.2.2.2.1))
  rw [decStep_of_field hfield, decStep_of_field (by rw [← hprog.idx]; exact hfield)]
  refine rxRead_alike h hprog fun b rest => ?_
  have called := sameConduct_call h h.input.txAnswers (rx := rest) rfl (.read (.byte b))
  exact decodeField_alike hrecv (sameConduct_refl called.phase called.input) (hprog.of_transport _ _ _ _ _ _ _ _) hp hdec
    hfield b

/-! The ending of both. -/

/-- At the end of a reception of length `n` the payload is the same (R33). -/
theorem payload_eq_of_received {n : Nat} {u v : State} (hprog : SameProgress u v) (hstep : u.step ≠ .enc)
    (hn : u.explen.toNat = n) (hidx : u.idx.toNat = n + 6) {j : Nat} (hj : j < n) :
    u.payload[j]? = v.payload[j]? :=
  (hprog.reception hstep).payload j (by omega) (by omega)

theorem payloadPart_congr {p q : Vector Byte Config.maxPayload} {n : Nat} (h : ∀ j, j < n → p[j]? = q[j]?) :
    payloadPart p n = payloadPart q n := by
  apply List.ext_getElem?
  intro j
  by_cases hj : j < n
  · simpa [payloadPart, hj] using h j hj
  · simp [payloadPart, hj]

theorem verifyAndComplete_alike {u v : State} (h : SameConduct u v u v) (hpay : ∀ j, j < 2 → u.payload[j]? = v.payload[j]?)
    (c m : Byte) : PartsAlike u v (verifyAndComplete c m u) (verifyAndComplete c m v) := by
  have h0 : u.payload[0] = v.payload[0] := by simpa using hpay 0 (by decide)
  have h1 : u.payload[1] = v.payload[1] := by simpa using hpay 1 (by decide)
  unfold verifyAndComplete
  rw [h0, h1]
  split
  · exact partsAlike_raise h _
  · exact partsAlike_complete h _

theorem extractAndComplete_alike {u v : State} (h : SameConduct u v u v) {n : Nat} {a a' : Vector Byte n} (hn : 24 ≤ n)
    (ha : a = a') : PartsAlike u v (extractAndComplete a hn u) (extractAndComplete a' hn v) := by
  subst ha
  have measured : SameConduct u v { u with meas := measurementFields a hn } { v with meas := measurementFields a hn } :=
    sameConduct_of_silent h ⟨rfl, rfl, rfl, rfl⟩ (by constructor <;> rfl) ⟨rfl, rfl, rfl, rfl⟩ (by constructor <;> rfl)
  exact (partsAlike_complete (sameConduct_refl measured.phase measured.input) _).after measured

/-! The operation in progress of both. -/

theorem SamePoint.atEnd {op : Operation} {u v : State} (h : SamePoint op u v) (hend : AtEnd op u) : AtEnd op v := by
  rcases sequenced_cases h.right h.sequencedRight with ⟨c, d, after, hframe, henc⟩ | ⟨n, after, hrecv, hdec⟩ | hend'
  · have hprog := h.progress (by rintro rfl; cases hframe)
    have hsent := hend.sent (hprog.step.trans henc.1)
    have hidx := henc.2.1
    rw [← hprog.idx, hsent] at hidx
    omega
  · have hprog := h.progress (by rintro rfl; cases hrecv)
    obtain ⟨_, hreceived, _⟩ := hend.received n after (by rw [h.operands, hrecv])
    have hidx := hdec.2.2.2.1
    rw [← hprog.idx, hreceived] at hidx
    omega
  · exact hend'

/-- Both end with the same result: it comes from the operand of EXTRACT, or from the bytes received (R204). -/
theorem finishPart_alike {op : Operation} {u v u' v' : State} {sub sub' : SubOp} (h : SameConduct u v u v)
    (hpoint : SamePoint op u v) (hend : AtEnd op u) (hfin : finishPart (operationInstr op u) u = some (sub, u'))
    (hfin' : finishPart (operationInstr op v) v = some (sub', v')) : PartsAlike u v u' v' := by
  have received {n : Nat} {after : State → State} (hrecv : receivePart (operationInstr op u) = some (n, after))
      (hlast : (subOps op u.mode).getLast? ≠ some .enc) : ∀ j, j < n → u.payload[j]? = v.payload[j]? := by
    obtain ⟨hn, hidx, _⟩ := hend.received n after hrecv
    have hprog := hpoint.progress (by rintro rfl; cases hrecv)
    exact fun j => payload_eq_of_received hprog (fun henc => hlast (henc ▸ hend.last)) hn hidx
  have measured (hpay : ∀ j, j < 26 → u.payload[j]? = v.payload[j]?) : u.payload = v.payload :=
    Vector.ext fun j hj => by simpa [hj] using hpay j hj
  have hop := hpoint.operands
  cases op with
  | encode =>
    cases hfin
    cases hfin'
    exact partsAlike_complete h _
  | decode =>
    obtain ⟨_, _, hplen⟩ := hend.received _ _ rfl
    obtain ⟨_, _, hplen'⟩ := (hpoint.atEnd hend).received _ _ rfl
    have hexplen : u.explen = v.explen := Instr.decode.inj hop
    cases hfin
    cases hfin'
    rw [hplen, hplen', ← hexplen, payloadPart_congr (received rfl (by simp [subOps]))]
    exact partsAlike_complete h _
  | extract =>
    have hopbuf : u.opbuf = v.opbuf := Instr.extract.inj hop
    cases hfin
    cases hfin'
    exact extractAndComplete_alike h _ hopbuf
  | setDataMode =>
    have hmode : u.mode = v.mode := Instr.setDataMode.inj hop
    cases hfin
    cases hfin'
    rw [← hmode]
    exact verifyAndComplete_alike h (received rfl (by simp [subOps])) _ _
  | getPassive =>
    cases hfin
    cases hfin'
    exact extractAndComplete_alike h _ (measured (received rfl (by simp [subOps])))
  | getActive =>
    cases hfin
    cases hfin'
    exact extractAndComplete_alike h _ (measured (received rfl (by simp [subOps])))
  | sleepSet =>
    have hmode : u.mode = v.mode := Instr.sleepSet.inj hop
    simp only [operationInstr, finishPart, ← hmode] at hfin hfin'
    rcases mode_cases u.mode with hm | hm
    · rw [if_pos hm] at hfin hfin'
      cases hfin
      cases hfin'
      refine verifyAndComplete_alike h (received (after := beginVer) ?_ (by rw [hm]; decide)) _ _
      simp only [operationInstr, receivePart, hm, if_true, Config.responseLength]
    · rw [if_neg (by rw [hm]; decide)] at hfin hfin'
      cases hfin
      cases hfin'
      exact partsAlike_complete h _

/-- The step of both operations shows the same, and leaves a transfer equally far. -/
theorem exec_alike {op : Operation} {u v : State} (h : SameConduct u v u v) (hp : u.phase = .busy)
    (hpoint : SamePoint op u v) :
    Agree (PartsAlike u v) (exec (operationInstr op u) u) (exec (operationInstr op v) v) := by
  have hp' : v.phase = .busy := h.phase.symm.trans hp
  have hop := hpoint.operands
  rcases sequenced_cases hpoint.left hpoint.sequencedLeft with ⟨c, d, after, hframe, henc⟩ | ⟨n, after, hrecv, hdec⟩ | hend
  · have hprog := hpoint.progress (by rintro rfl; cases hframe)
    obtain ⟨hstep, hidx, _⟩ := henc
    have hidx' : v.idx.toNat ≤ 6 := by rw [← hprog.idx]; exact hidx
    rw [← hop, exec_of_framePart hp hframe hstep (Nat.lt_succ_of_le hidx),
      exec_of_framePart hp' hframe (hprog.step.symm.trans hstep) (Nat.lt_succ_of_le hidx')]
    exact encStep_alike hframe h hprog hstep
  · have hprog := hpoint.progress (by rintro rfl; cases hrecv)
    obtain ⟨hstep, _, _, hidx, _⟩ := id hdec
    have hidx' : v.idx.toNat ≤ n + 5 := by rw [← hprog.idx]; exact hidx
    rw [← hop, exec_of_receivePart hp hrecv hstep (Nat.lt_succ_of_le hidx),
      exec_of_receivePart hp' hrecv (hprog.step.symm.trans hstep) (Nat.lt_succ_of_le hidx')]
    exact decStep_alike hrecv h hprog hp hdec
  · obtain ⟨u', hfin, hu'⟩ := exec_of_atEnd hp hend
    obtain ⟨v', hfin', hv'⟩ := exec_of_atEnd hp' (hpoint.atEnd hend)
    rw [hu', hv']
    exact finishPart_alike h hpoint hend hfin hfin'

/-! What a step of the operation leaves, by the phase after it. -/

theorem finishPart_resetLine {i : Instr} {s t : State} {sub : SubOp} (h : finishPart i s = some (sub, t)) :
    t.resetLine = s.resetLine := by
  rcases finishPart_cases h with rfl | rfl | ⟨_, rfl⟩ | ⟨_, m, rfl⟩ <;> rfl

theorem OperationStep.resetLine {op : Operation} {s t : State} (h : OperationStep op s t) :
    t.resetLine = s.resetLine := by
  cases h with
  | goesOn kept => exact kept.resetLine
  | fails kind kept => exact kept.resetLine
  | ends _ finish => exact finishPart_resetLine finish

theorem OperationStep.endsWithResponse {op : Operation} {s t : State} (h : OperationStep op s t)
    (hop : Operation.ofCode s.op = some op) (hp : s.phase = .busy) (hidle : t.phase = .idle) : EndsWithResponse s t := by
  cases h with
  | goesOn kept =>
    rw [kept.phase, hp] at hidle
    cases hidle
  | @fails kind u kept =>
    exact ⟨rfl, by rw [(raise_endsWithResponse kind u).responses, kept.responses]⟩
  | ends _ finish => exact finishPart_endsWithResponse hop finish

theorem OperationStep.keepsOperation {op : Operation} {s t : State} (h : OperationStep op s t)
    (hop : Operation.ofCode s.op = some op) (hbusy : t.phase = .busy) :
    KeepsOperation s t ∧ operationInstr op t = operationInstr op s ∧ Sequenced t := by
  cases h with
  | goesOn kept operands sequenced => exact ⟨kept, operands, sequenced⟩
  | fails kind => cases hbusy
  | ends _ finish =>
    rw [(finishPart_endsWithResponse hop finish).phase] at hbusy
    cases hbusy

/-! What the host can read. -/

theorem visibleResult_valid (s : State) : s.visibleResult.valid = s.resultValid := by
  unfold State.visibleResult
  split_ifs with hvalid <;> simp_all [Result.valid]

theorem sameEnd_of_status_of_visibleResult {u v : State} (hstatus : u.status = v.status)
    (hresult : u.visibleResult = v.visibleResult) : SameEnd u v :=
  ⟨hstatus, by rw [← visibleResult_valid, ← visibleResult_valid, hresult], hresult⟩

/-- With no valid result the host reads STATUS alone. -/
theorem sameEnd_of_no_result {u v : State} (hu : u.resultValid = false) (hv : v.resultValid = false)
    (hstatus : u.status = v.status) : SameEnd u v :=
  sameEnd_of_status_of_visibleResult hstatus (by simp [State.visibleResult, hu, hv, hstatus])

/-- The response to an operation holds what the host can then read, so that equal responses end alike. -/
theorem sameEnd_of_response {u v u' v' : State} (h : SameConduct u v u' v') (hu : EndsWithResponse u u')
    (hv : EndsWithResponse v v') : SameEnd u' v' := by
  obtain ⟨given, hgu, hgv⟩ := h.responses
  have equal : [Response.mk u'.status u'.visibleResult] = [Response.mk v'.status v'.visibleResult] :=
    (List.append_cancel_left (hu.responses.symm.trans hgu)).trans
      (List.append_cancel_left (hv.responses.symm.trans hgv)).symm
  simp only [List.cons.injEq, Response.mk.injEq, and_true] at equal
  exact sameEnd_of_status_of_visibleResult equal.1 equal.2

/-! One step of both. -/

/-- Two blocks at the same point: what a step depends on is the same. -/
structure Twins (u v : State) : Prop where
  same : SameConduct u v u v
  point : u.phase = .busy → ∃ op, SamePoint op u v

/-- One step of twins: they show the same, are twins again, and end alike. -/
structure StepsAlike (u v u' v' : State) : Prop where
  conduct : SameConduct u v u' v'
  point : u'.phase = .busy → ∃ op, SamePoint op u' v'
  resetLine : u'.resetLine = u.resetLine.tail
  keepsEnd : SameEnd u v → SameEnd u' v'
  ends : u.phase = .busy → u'.phase = .idle → SameEnd u' v'

theorem StepsAlike.twins {u v u' v' : State} (h : StepsAlike u v u' v') : Twins u' v' :=
  ⟨sameConduct_refl h.conduct.phase h.conduct.input, h.point⟩

/-- A step of the operation in progress; `u` and `v` have the reset input one sample on. -/
theorem exec_operation_alike {op : Operation} {u v : State} (h : SameConduct u v u v) (hp : u.phase = .busy)
    (hpoint : SamePoint op u v) :
    Agree (fun u' v' => SameConduct u v u' v' ∧ (u'.phase = .busy → SamePoint op u' v') ∧
        u'.resetLine = u.resetLine ∧ (SameEnd u v → SameEnd u' v') ∧ (u'.phase = .idle → SameEnd u' v'))
      (exec (operationInstr op u) u) (exec (operationInstr op v) v) := by
  have hp' : v.phase = .busy := h.phase.symm.trans hp
  have alike := exec_alike h hp hpoint
  obtain ⟨u', hu', stepLeft⟩ := exec_operationStep hp hpoint.left hpoint.sequencedLeft
  obtain ⟨v', hv', stepRight⟩ := exec_operationStep hp' hpoint.right hpoint.sequencedRight
  rw [hu', hv'] at alike ⊢
  obtain ⟨conduct, progress⟩ : PartsAlike u v u' v' := alike
  have ends (hidle : u'.phase = .idle) : SameEnd u' v' :=
    sameEnd_of_response conduct (stepLeft.endsWithResponse hpoint.left hp hidle)
      (stepRight.endsWithResponse hpoint.right hp' (conduct.phase.symm.trans hidle))
  refine ⟨conduct, fun hbusy => ?_, stepLeft.resetLine, fun hsame => ?_, ends⟩
  · obtain ⟨keptLeft, operandsLeft, sequencedLeft⟩ := stepLeft.keepsOperation hpoint.left hbusy
    obtain ⟨keptRight, operandsRight, sequencedRight⟩ :=
      stepRight.keepsOperation hpoint.right (conduct.phase.symm.trans hbusy)
    exact ⟨by rw [keptLeft.op, hpoint.left], by rw [keptRight.op, hpoint.right],
      by rw [operandsLeft, operandsRight, hpoint.operands], fun _ => progress hbusy, sequencedLeft, sequencedRight,
      by rw [keptLeft.resultValid, hpoint.noResultLeft], by rw [keptRight.resultValid, hpoint.noResultRight]⟩
  · rcases hphase : u'.phase
    · exact ends hphase
    · obtain ⟨keptLeft, _⟩ := stepLeft.keepsOperation hpoint.left hphase
      obtain ⟨keptRight, _⟩ := stepRight.keepsOperation hpoint.right (conduct.phase.symm.trans hphase)
      exact sameEnd_of_no_result (by rw [keptLeft.resultValid, hpoint.noResultLeft])
        (by rw [keptRight.resultValid, hpoint.noResultRight])
        (by rw [keptLeft.status, keptRight.status, hsame.status])

/-! Acceptance by both. -/

/-- The operation in progress after an acceptance is the accepted one, with its operands latched (R84). -/
theorem operationInstr_of_acceptPart {i : Instr} {op : Operation} {s t : State} (hi : acceptedOperation i = some op)
    (h : acceptPart i s = some t) : operationInstr op t = i := by
  cases i with
  | decode n =>
    cases hi
    simp only [acceptPart, Option.ite_none_right_eq_some] at h
    obtain ⟨_, ⟨⟩⟩ := h
    rfl
  | _ => cases hi <;> cases h <;> rfl

/-- A transfer starts with nothing sent and nothing received (R100, R120). -/
theorem acceptPart_progress {i : Instr} {op : Operation} {u v u' v' : State} (hi : acceptedOperation i = some op)
    (hne : op ≠ .extract) (hu : acceptPart i u = some u') (hv : acceptPart i v = some v') : SameProgress u' v' := by
  cases i with
  | decode n =>
    simp only [acceptPart, Option.ite_none_right_eq_some] at hu hv
    obtain ⟨_, ⟨⟩⟩ := hu
    obtain ⟨_, ⟨⟩⟩ := hv
    exact sameProgress_beginDec n _ _
  | extract a =>
    cases hi
    exact absurd rfl hne
  | getActive =>
    cases hu
    cases hv
    exact sameProgress_beginDec 26 _ _
  | _ => cases hi <;> cases hu <;> cases hv <;> exact sameProgress_of_enc rfl rfl rfl rfl

theorem acceptPart_alike {i : Instr} {u v u' v' : State} (h : SameConduct u v u v) (hu : acceptPart i u = some u')
    (hv : acceptPart i v = some v') :
    SameConduct u v u' v' ∧ (∃ op, SamePoint op u' v') ∧ u'.resetLine = u.resetLine ∧ u'.phase = .busy ∧
      (SameEnd u v → SameEnd u' v') := by
  obtain ⟨op, hi, accLeft⟩ := acceptPart_accepts hu
  obtain ⟨op', hi', accRight⟩ := acceptPart_accepts hv
  cases hi.symm.trans hi'
  have transLeft := acceptPart_sameTransport hu
  have transRight := acceptPart_sameTransport hv
  refine ⟨⟨by rw [accLeft.phase, accRight.phase], ⟨?_, ?_, ?_, ?_, ?_⟩, ⟨[], ?_, ?_⟩, ⟨[], ?_, ?_⟩⟩, ⟨op, ?_⟩,
    accLeft.resetLine, accLeft.phase, fun hsame => ?_⟩
  · rw [accLeft.requests, accRight.requests, h.input.requests]
  · rw [transLeft.txAnswers, transRight.txAnswers, h.input.txAnswers]
  · rw [transLeft.rxAnswers, transRight.rxAnswers, h.input.rxAnswers]
  · rw [transLeft.pending, transRight.pending, h.input.pending]
  · rw [accLeft.resetLine, accRight.resetLine, h.input.resetLine]
  · rw [transLeft.trace, List.append_nil]
  · rw [transRight.trace, List.append_nil]
  · rw [accLeft.responses, List.append_nil]
  · rw [accRight.responses, List.append_nil]
  · exact ⟨by rw [accLeft.op, ofCode_code], by rw [accRight.op, ofCode_code],
      by rw [operationInstr_of_acceptPart hi hu, operationInstr_of_acceptPart hi hv],
      fun hne => acceptPart_progress hi hne hu hv, (acceptPart_starts hi hu).1, (acceptPart_starts hi hv).1,
      accLeft.resultValid, accRight.resultValid⟩
  · exact sameEnd_of_no_result accLeft.resultValid accRight.resultValid
      (by rw [accLeft.status, accRight.status, hsame.status])

/-- In IDLE both accept, or both refuse. -/
theorem exec_idle_agree {R : State → State → Prop} {u v : State} (i : Instr) (hu : u.phase = .idle)
    (hv : v.phase = .idle) (h : ∀ u' v', acceptPart i u = some u' → acceptPart i v = some v' → R u' v') :
    Agree R (exec i u) (exec i v) := by
  cases i with
  | decode n =>
    simp only [exec, execDecode, hu, hv]
    split
    · rename_i hn
      exact h _ _ (if_pos hn) (if_pos hn)
    · rfl
  | wireChangeMode d =>
    simp only [exec, execWireChangeMode, hu, hv]
    rfl
  | wireReadPassive =>
    simp only [exec, execWireReadPassive, hu, hv]
    rfl
  | wireSleepSet d =>
    simp only [exec, execWireSleepSet, hu, hv]
    rfl
  | _ =>
    simp only [exec, execEncode, execExtract, execSetDataMode, execGetPassive, execGetActive, execSleepSet, hu, hv]
    exact h _ _ rfl rfl

/-! Reset of both. -/

theorem takeReset_alike {u v : State} (h : SameConduct u v u v) (hlength : u.trace.length = v.trace.length) :
    SameConduct u v (takeReset u) (takeReset v) := by
  have hconsumes : u.abandonedReadConsumes = v.abandonedReadConsumes := by
    simp only [State.abandonedReadConsumes, h.input.pending, hlength]
  refine ⟨rfl, ⟨h.input.requests, h.input.txAnswers, ?_, rfl, h.input.resetLine⟩, ⟨_, rfl, ?_⟩,
    ⟨[], by simp, by simp⟩⟩
  · rw [takeReset_rxAnswers, takeReset_rxAnswers, hconsumes, h.input.rxAnswers]
  · rw [takeReset_trace, State.observedTrace, h.input.pending]

theorem SamePoint.of_resetLine {op : Operation} {u v : State} (h : SamePoint op u v) (line line' : List Bool) :
    SamePoint op { u with resetLine := line } { v with resetLine := line' } where
  left := h.left
  right := h.right
  operands := by
    have hop := h.operands
    cases op <;> exact hop
  progress hne := by
    obtain ⟨hstep, hidx, hsum, hrec⟩ := h.progress hne
    exact ⟨hstep, hidx, hsum, fun hne => have r := hrec hne; ⟨r.explen, r.len, r.rxchk, r.payload⟩⟩
  sequencedLeft := h.sequencedLeft
  sequencedRight := h.sequencedRight
  noResultLeft := h.noResultLeft
  noResultRight := h.noResultRight

/-- The reset input moves on by one sample in both. -/
theorem sameConduct_sample {u v : State} (h : SameConduct u v u v) {line line' : List Bool} (hline : line = line') :
    SameConduct u v { u with resetLine := line } { v with resetLine := line' } :=
  ⟨h.phase, ⟨h.input.requests, h.input.txAnswers, h.input.rxAnswers, h.input.pending, hline⟩,
    ⟨[], by simp, by simp⟩, ⟨[], by simp, by simp⟩⟩

theorem step_alike_of_reset {u v : State} {rest : List Bool} (h : Twins u v) (hline : u.resetLine = true :: rest)
    (hlength : u.trace.length = v.trace.length) : Agree (StepsAlike u v) (step u) (step v) := by
  rw [step_of_reset hline, step_of_reset (h.same.input.resetLine.symm.trans hline)]
  have sampled := sameConduct_sample h.same (line := rest) rfl
  have conduct := sampled.trans (takeReset_alike (sameConduct_refl sampled.phase sampled.input) hlength)
  exact ⟨conduct, nofun, by rw [hline]; rfl, fun _ => sameEnd_of_no_result rfl rfl rfl,
    fun _ _ => sameEnd_of_no_result rfl rfl rfl⟩

/-- A step in which neither has anything to do. -/
theorem stepsAlike_of_wait {u v : State} (h : Twins u v) :
    StepsAlike u v { u with resetLine := u.resetLine.tail } { v with resetLine := v.resetLine.tail } where
  conduct := sameConduct_sample h.same (by rw [h.same.input.resetLine])
  point hbusy := by
    obtain ⟨op, hpoint⟩ := h.point hbusy
    exact ⟨op, hpoint.of_resetLine _ _⟩
  resetLine := rfl
  keepsEnd hsame := ⟨hsame.status, hsame.resultValid, hsame.result⟩
  ends hbusy hidle := by
    rw [show u.phase = .idle from hidle] at hbusy
    cases hbusy

theorem step_alike_of_idle {u v : State} (h : Twins u v) (hr : ¬ ResetDue u) (hr' : ¬ ResetDue v)
    (hp : u.phase = .idle) : Agree (StepsAlike u v) (step u) (step v) := by
  have hp' : v.phase = .idle := h.same.phase.symm.trans hp
  rcases hreq : u.requests with _ | ⟨r, later⟩ <;> have hreq' := h.same.input.requests.symm.trans hreq
  · rw [step_of_no_request hp hr rfl hreq, step_of_no_request hp' hr' rfl hreq']
    exact stepsAlike_of_wait h
  · rcases hd : decodeRequest r with e | i
    · rw [step_of_refused_request hp hr hreq hd, step_of_refused_request hp' hr' hreq' hd]
      rfl
    · rw [step_of_request hp hr rfl hreq hd, step_of_request hp' hr' rfl hreq' hd]
      have taken : SameConduct u v { u with resetLine := u.resetLine.tail, requests := later }
          { v with resetLine := v.resetLine.tail, requests := later } :=
        ⟨h.same.phase, ⟨rfl, h.same.input.txAnswers, h.same.input.rxAnswers, h.same.input.pending,
          by rw [h.same.input.resetLine]⟩, ⟨[], by simp, by simp⟩, ⟨[], by simp, by simp⟩⟩
      refine exec_idle_agree i hp hp' fun u' v' hu hv => ?_
      obtain ⟨conduct, point, hline, _, keepsEnd⟩ := acceptPart_alike (sameConduct_refl taken.phase taken.input) hu hv
      refine ⟨taken.trans conduct, fun _ => point, hline, fun hsame => ?_, fun hbusy => ?_⟩
      · exact keepsEnd ⟨hsame.status, hsame.resultValid, hsame.result⟩
      · rw [hp] at hbusy
        cases hbusy

theorem step_alike_of_busy {u v : State} (h : Twins u v) (hr : ¬ ResetDue u) (hr' : ¬ ResetDue v)
    (hp : u.phase = .busy) : Agree (StepsAlike u v) (step u) (step v) := by
  have hp' : v.phase = .busy := h.same.phase.symm.trans hp
  by_cases hfree : u.pending = none
  · have hfree' : v.pending = none := h.same.input.pending.symm.trans hfree
    obtain ⟨op, hpoint⟩ := h.point hp
    have sampled := sameConduct_sample h.same (congrArg List.tail h.same.input.resetLine)
    have hpoint' := hpoint.of_resetLine u.resetLine.tail v.resetLine.tail
    rw [step_eq_exec_operation hp hfree hr rfl hpoint'.left hpoint'.sequencedLeft,
      step_eq_exec_operation hp' hfree' hr' rfl hpoint'.right hpoint'.sequencedRight]
    refine (exec_operation_alike (sameConduct_refl sampled.phase sampled.input) hp hpoint').imp ?_
    rintro u' v' ⟨conduct, point, hline, keepsEnd, ends⟩
    exact ⟨sampled.trans conduct, fun hbusy => ⟨op, point hbusy⟩, hline,
      fun hsame => keepsEnd ⟨hsame.status, hsame.resultValid, hsame.result⟩, fun _ => ends⟩
  · have hpend' : v.pending ≠ none := fun hnone => hfree (h.same.input.pending.trans hnone)
    rw [step_of_outstanding hp hr rfl hfree, step_of_outstanding hp' hr' rfl hpend']
    exact stepsAlike_of_wait h

/-- The traces are equally long, so that a read which a reset abandons has one position in both, or no reset comes. -/
def ResetsAlike (u v : State) : Prop := u.trace.length = v.trace.length ∨ true ∉ u.resetLine

/-- One step of twins. -/
theorem step_alike {u v : State} (h : Twins u v) (hresets : ResetsAlike u v) :
    Agree (StepsAlike u v) (step u) (step v) := by
  by_cases hr : ResetDue u
  · obtain ⟨rest, hline⟩ := hr
    exact step_alike_of_reset h hline (hresets.resolve_right (by simp [hline]))
  · have hr' : ¬ ResetDue v := fun ⟨rest, hline⟩ => hr ⟨rest, h.same.input.resetLine.trans hline⟩
    rcases hp : u.phase
    · exact step_alike_of_idle h hr hr' hp
    · exact step_alike_of_busy h hr hr' hp

/-! Runs of both. -/

theorem StepsAlike.resetsAlike {u v u' v' : State} (h : StepsAlike u v u' v') (hresets : ResetsAlike u v) :
    ResetsAlike u' v' := by
  obtain ⟨calls, hu, hv⟩ := h.conduct.calls
  refine hresets.imp (fun hlength => by rw [hu, hv, List.length_append, List.length_append, hlength]) fun hnone => ?_
  rw [h.resetLine]
  exact fun hin => hnone (List.mem_of_mem_tail hin)

theorem runSteps_of_fault {s : State} {f : Fault} (k : Nat) (h : step s = .fault f) :
    runSteps (k + 1) s = .fault f := by
  have hc : Sys2Proof.core.step s = .fault f := h
  simp only [runSteps, Host.Core.run, hc]
  rfl

theorem runSteps_of_refused {s : State} {r : Refusal} (k : Nat) (h : step s = .refused r) :
    runSteps (k + 1) s = .refused r := by
  have hc : Sys2Proof.core.step s = .refused r := h
  simp only [runSteps, Host.Core.run, hc]
  rfl

/-- An operation within a run is in progress at its start, or within the run from the next state. -/
theorem OperationWithin.of_succ {k : Nat} {s t : State} (h : OperationWithin (k + 1) s) (hstep : step s = .next t) :
    s.phase = .busy ∨ OperationWithin k t := by
  obtain ⟨j, w, hj, hw, hbusy⟩ := h
  rcases j with _ | j
  · cases hw
    exact .inl hbusy
  · exact .inr ⟨j, w, Nat.le_of_succ_le_succ hj, by rw [← runSteps_succ j hstep]; exact hw, hbusy⟩

/-- Runs of twins show the same, and end alike. -/
theorem runSteps_alike (k : Nat) {s t : State} (h : Twins s t) (hresets : ResetsAlike s t) :
    Agree (fun u v => SameConduct s t u v ∧ (SameEnd s t ∨ (u.phase = .idle ∧ OperationWithin k s) → SameEnd u v))
      (runSteps k s) (runSteps k t) := by
  induction k generalizing s t with
  | zero =>
    refine ⟨h.same, fun hend => hend.elim id ?_⟩
    rintro ⟨hidle, j, w, hj, hw, hbusy⟩
    cases Nat.le_zero.1 hj
    cases hw
    rw [hidle] at hbusy
    cases hbusy
  | succ k ih =>
    have alike := step_alike h hresets
    rcases hs : step s with s' | f | r <;> rcases ht : step t with t' | g | q <;> rw [hs, ht] at alike
    case next.next =>
      have hstep : StepsAlike s t s' t' := alike
      rw [runSteps_succ k hs, runSteps_succ k ht]
      refine (ih hstep.twins (hstep.resetsAlike hresets)).imp fun u v ⟨conduct, ends⟩ => ?_
      refine ⟨hstep.conduct.trans conduct, fun hend => ends ?_⟩
      rcases hend with hsame | ⟨hidle, hwithin⟩
      · exact .inl (hstep.keepsEnd hsame)
      · rcases hwithin.of_succ hs with hbusy | hlater
        · rcases hp : s'.phase
          · exact .inl (hstep.ends hbusy hp)
          · exact .inr ⟨hidle, 0, s', Nat.zero_le k, rfl, hp⟩
        · exact .inr ⟨hidle, hlater⟩
    case fault.fault =>
      rw [runSteps_of_fault k hs, runSteps_of_fault k ht]
      exact alike
    case refused.refused =>
      rw [runSteps_of_refused k hs, runSteps_of_refused k ht]
      exact alike
    all_goals cases alike

/-- Settles O58: two IDLE states with the same input are twins, for in IDLE no register counts. -/
theorem noStateBetweenOperations : Obligations.NoStateBetweenOperations := by
  intro s t k hs ht hin hresets
  have hphase : s.phase = t.phase := by rw [hs, ht]
  refine runSteps_alike k ⟨sameConduct_refl hphase hin, fun hbusy => ?_⟩ hresets
  rw [hs] at hbusy
  cases hbusy

end Sys2Proof.Machine

/-! ## The TX wire of a trace (spec/20_memory.md R51, R61) -/

namespace Sys2Proof.Machine

/-- With no call outstanding every call has its event in the trace (R105). -/
theorem State.observedTrace_of_pending_none {s : State} (h : s.pending = none) : s.observedTrace = s.trace := by
  simp [State.observedTrace, h]

/-- Accepted bytes are on the wire, in the order of their writes, wherever in the trace they stand (R51). -/
@[simp] theorem wireFrom_writesOk (n : Nat) (bytes : List Byte) : wireFrom n (writesOk bytes) = bytes := by
  induction bytes generalizing n with
  | nil => rfl
  | cons b bytes ih => exact congrArg (b :: ·) (ih (n + 1))

/-- A failed write puts its byte on the wire exactly where the free value of its position says so (R61, log 5). -/
theorem wireFrom_failedWrite (n : Nat) (b : Byte) :
    wireFrom n [.write b .fail] = if Config.attemptReaches n then [b] else [] := rfl

/-- Settles O23: the wire of the trace is that of its three parts, and the last one is the failed byte or nothing. -/
theorem wireAfterFailedWrite : Obligations.WireAfterFailedWrite := by
  intro s before sent b htrace hpending
  have hwire : s.wire = wireFrom 0 before ++ sent ++
      wireFrom (0 + (before ++ writesOk sent).length) [.write b .fail] := by
    rw [State.wire, State.observedTrace_of_pending_none hpending, htrace, wireFrom_append, wireFrom_append,
      wireFrom_writesOk]
  rw [wireFrom_failedWrite] at hwire
  split at hwire
  case isTrue reached => exact .inr hwire
  case isFalse lost => exact .inl (hwire.trans (List.append_nil _))

end Sys2Proof.Machine

/-! ## The decoder and the encoder of requests (spec/30_encoding.md R78 to R85)

OP names the row of a word, and a row selects exactly the words that the encoder writes from their own fields
(`selects_iff_wordOf`). Both directions of the round trip and the refusals follow from this. -/

namespace Sys2Proof
open Machine

/-! Which row selects a word. -/

/-- A field that a mask covers is compared whole. -/
theorem extractLsb'_of_masked {w m p : Word} {k n : Nat} (h : w &&& m = p)
    (hm : m.extractLsb' k n = BitVec.allOnes n) : w.extractLsb' k n = p.extractLsb' k n := by
  rw [← h, BitVec.extractLsb'_and, hm, BitVec.and_allOnes]

theorem RequestRow.selects_iff (row : RequestRow) (w : Word) : row.selects w = true ↔ w &&& row.mask = row.pattern :=
  beq_iff_eq

/-- Every row compares OP whole with the code of its operation (R80). -/
theorem opField_of_selects {row : RequestRow} {w : Word} (hrow : row ∈ requestRows) (h : row.selects w) :
    opField w = row.operation.code := by
  have compares : ∀ row ∈ requestRows,
      row.mask.extractLsb' 28 4 = BitVec.allOnes 4 ∧ row.pattern.extractLsb' 28 4 = row.operation.code := by
    decide
  obtain ⟨hmask, hpattern⟩ := compares row hrow
  exact (extractLsb'_of_masked ((row.selects_iff w).1 h) hmask).trans hpattern

/-- No operation has two rows (R80). -/
theorem row_eq_of_operation : ∀ row₁ ∈ requestRows, ∀ row₂ ∈ requestRows,
    row₁.operation = row₂.operation → row₁ = row₂ := by
  decide

theorem exists_row (op : Operation) : ∃ row ∈ requestRows, row.operation = op := by
  cases op <;> decide

/-- At most one row selects a word (R80). -/
theorem row_eq_of_selects {row₁ row₂ : RequestRow} {w : Word} (h₁ : row₁ ∈ requestRows) (h₂ : row₂ ∈ requestRows)
    (hw₁ : row₁.selects w) (hw₂ : row₂.selects w) : row₁ = row₂ :=
  row_eq_of_operation row₁ h₁ row₂ h₂
    (code_injective ((opField_of_selects h₁ hw₁).symm.trans (opField_of_selects h₂ hw₂)))

theorem find?_eq_some_of_selects {row : RequestRow} {w : Word} (hrow : row ∈ requestRows) (h : row.selects w) :
    requestRows.find? (·.selects w) = some row := by
  have hsome : (requestRows.find? (·.selects w)).isSome := List.find?_isSome.2 ⟨row, hrow, h⟩
  obtain ⟨found, hfound⟩ := Option.isSome_iff_exists.1 hsome
  have hw : found.selects w = true := by simpa using List.find?_some hfound
  rw [hfound, row_eq_of_selects (List.mem_of_find?_eq_some hfound) hrow hw h]

/-! What the decoder of requests answers, by the row that selects the word. -/

/-- A selected word spells the operation of its row, unless that is a DECODE that is too long (R80, R83). -/
theorem decodeRequest_of_selects {row : RequestRow} {r : Request} (hrow : row ∈ requestRows)
    (h : row.selects r.word) :
    decodeRequest r =
      if (row.operation.instrOf r).wf then .ok (row.operation.instrOf r) else .error .payloadTooLong := by
  simp only [decodeRequest, find?_eq_some_of_selects hrow h]

/-- A word that no row selects spells nothing (R81, R82). -/
theorem decodeRequest_of_not_selects {r : Request} (h : ∀ row ∈ requestRows, ¬ row.selects r.word) :
    decodeRequest r =
      .error (if (Operation.ofCode (opField r.word)).isSome then .reservedBits else .reservedOpcode) := by
  rw [decodeRequest, List.find?_eq_none.2 h]
  cases Operation.ofCode (opField r.word) <;> rfl

theorem decodeRequest_eq_ok {r : Request} {i : Instr} (h : decodeRequest r = .ok i) :
    ∃ row ∈ requestRows, row.selects r.word ∧ i = row.operation.instrOf r ∧ i.wf = true := by
  by_cases hsel : ∃ row ∈ requestRows, row.selects r.word
  · obtain ⟨row, hrow, hw⟩ := hsel
    rw [decodeRequest_of_selects hrow hw] at h
    split at h
    case isTrue hwf =>
      cases h
      exact ⟨row, hrow, hw, rfl, hwf⟩
    case isFalse => cases h
  · rw [decodeRequest_of_not_selects (by simpa using hsel)] at h
    cases h

theorem decodeRequest_ok_of_selects {row : RequestRow} {r : Request} (hrow : row ∈ requestRows)
    (h : row.selects r.word) (hwf : (row.operation.instrOf r).wf = true) :
    decodeRequest r = .ok (row.operation.instrOf r) := by
  rw [decodeRequest_of_selects hrow h, if_pos hwf]

/-! The words of an operation are those the encoder writes. -/

/-- The word of an operation in its format, with the operand fields of `w` (R79, R80). -/
def Operation.wordOf (op : Operation) (w : Word) : Word :=
  match op with
  | .encode => formatC 0x1 (cmdField w) (dataField w)
  | .decode => formatL 0x2 (explenField w)
  | .extract => formatN 0x3
  | .setDataMode => formatM 0x4 (modeField w)
  | .getPassive => formatN 0x5
  | .getActive => formatN 0x6
  | .sleepSet => formatM 0x7 (modeField w)

/-- The operand that a request of an operation carries: OPBUF for EXTRACT, none for the others (R85). -/
def Operation.operandOf (op : Operation) (r : Request) : Operand :=
  if op = .extract then r.opbuf else Vector.replicate 26 0

theorem encode_instrOf (op : Operation) (r : Request) :
    encode (op.instrOf r) = .request { word := op.wordOf r.word, opbuf := op.operandOf r } := by
  cases op <;> rfl

/-- A row selects exactly the words that the encoder writes from their own fields: every bit outside the fields is
compared (R79, R80). -/
theorem selects_iff_wordOf {row : RequestRow} (hrow : row ∈ requestRows) (w : Word) :
    row.selects w ↔ row.operation.wordOf w = w := by
  simp only [requestRows, List.mem_cons, List.not_mem_nil, or_false] at hrow
  rw [row.selects_iff, ← BitVec.toNat_inj (x := row.operation.wordOf w)]
  rcases hrow with rfl | rfl | rfl | rfl | rfl | rfl | rfl
  · refine (masked_encode_iff w).trans ?_
    simp only [Operation.wordOf, toNat_formatC, toNat_cmdField, toNat_dataField, BitVec.reduceToNat]
    omega
  · refine (masked_decode_iff w).trans ?_
    simp only [Operation.wordOf, toNat_formatL, toNat_explenField, BitVec.reduceToNat]
    omega
  · refine (masked_word_iff w _).trans ?_
    simp only [Operation.wordOf, toNat_formatN, BitVec.reduceToNat]
    omega
  · refine (masked_setDataMode_iff w).trans ?_
    simp only [Operation.wordOf, toNat_formatM, toNat_modeField, BitVec.reduceToNat]
    omega
  · refine (masked_word_iff w _).trans ?_
    simp only [Operation.wordOf, toNat_formatN, BitVec.reduceToNat]
    omega
  · refine (masked_word_iff w _).trans ?_
    simp only [Operation.wordOf, toNat_formatN, BitVec.reduceToNat]
    omega
  · refine (masked_sleepSet_iff w).trans ?_
    simp only [Operation.wordOf, toNat_formatM, toNat_modeField, BitVec.reduceToNat]
    omega

/-! The fields of the encoder's words. -/

@[simp] theorem cmdField_formatC (op : BitVec 4) (cmd : Byte) (data : Half) : cmdField (formatC op cmd data) = cmd := by
  apply BitVec.eq_of_toNat_eq
  rw [toNat_cmdField, toNat_formatC]
  omega

@[simp] theorem dataField_formatC (op : BitVec 4) (cmd : Byte) (data : Half) :
    dataField (formatC op cmd data) = data := by
  apply BitVec.eq_of_toNat_eq
  rw [toNat_dataField, toNat_formatC]
  omega

@[simp] theorem explenField_formatL (op : BitVec 4) (explen : Byte) : explenField (formatL op explen) = explen := by
  apply BitVec.eq_of_toNat_eq
  rw [toNat_explenField, toNat_formatL]
  omega

@[simp] theorem modeField_formatM (op : BitVec 4) (mode : BitVec 1) : modeField (formatM op mode) = mode := by
  apply BitVec.eq_of_toNat_eq
  rw [toNat_modeField, toNat_formatM]
  omega

/-- The encoder's request carries every operand in its field (R79, R85). -/
theorem exists_instrOf_of_encode {i : Instr} {r : Request} (h : encode i = .request r) :
    ∃ op : Operation, op.instrOf r = i := by
  cases i <;> cases h
  case encode cmd data => exact ⟨.encode, by simp [Operation.instrOf]⟩
  case decode n => exact ⟨.decode, by simp [Operation.instrOf]⟩
  case extract payload => exact ⟨.extract, rfl⟩
  case setDataMode mode => exact ⟨.setDataMode, by simp [Operation.instrOf]⟩
  case getPassive => exact ⟨.getPassive, rfl⟩
  case getActive => exact ⟨.getActive, rfl⟩
  case sleepSet mode => exact ⟨.sleepSet, by simp [Operation.instrOf]⟩

theorem decodeRequest_of_encode {i : Instr} {r : Request} (h : encode i = .request r) (hwf : i.wf = true) :
    decodeRequest r = .ok i := by
  obtain ⟨op, rfl⟩ := exists_instrOf_of_encode h
  obtain ⟨row, hrow, rfl⟩ := exists_row op
  rw [encode_instrOf] at h
  have hword : row.operation.wordOf r.word = r.word := congrArg Request.word (Code.request.inj h)
  exact decodeRequest_ok_of_selects hrow ((selects_iff_wordOf hrow r.word).2 hword) hwf

theorem decodeFrame_of_encode {i : Instr} {bytes : List Byte} (h : encode i = .frame bytes) (hwf : i.wf = true) :
    decodeFrame bytes = .ok i := by
  cases i <;> cases h <;> rw [decodeFrame_commandFrame]
  case wireChangeMode data => exact if_pos ⟨rfl, hwf⟩
  case wireReadPassive => rfl
  case wireSleepSet data =>
    have notChangeMode : Config.cmdSleepSet ≠ Config.cmdChangeMode := by decide
    have notReadPassive : Config.cmdSleepSet ≠ Config.cmdReadPassive := by decide
    rw [if_neg fun h => notChangeMode h.1, if_neg fun h => notReadPassive h.1, if_pos ⟨rfl, hwf⟩]

/-- Settles O1: the encoder writes a request or a frame, and the decoder of either gives the instruction back. -/
theorem decodeEncodeRoundTrip : Obligations.DecodeEncodeRoundTrip := by
  intro i hwf
  rcases h : encode i with r | bytes
  · exact decodeRequest_of_encode h hwf
  · exact decodeFrame_of_encode h hwf

/-- Settles O2: the row that selects the word selects only words that the encoder writes. -/
theorem decodedRequestKeepsItsWord : Obligations.DecodedRequestKeepsItsWord := by
  intro r i h
  obtain ⟨row, hrow, hw, rfl, hwf⟩ := decodeRequest_eq_ok h
  refine ⟨hwf, row.operation.operandOf r, ?_, fun hop => ?_⟩
  · rw [encode_instrOf, (selects_iff_wordOf hrow r.word).1 hw]
  · have hextract : row.operation = .extract := code_injective ((opField_of_selects hrow hw).symm.trans hop)
    rw [Operation.operandOf, if_pos hextract]

/-- Settles O3: one row at most has the OP of a word, and its words decode by that row. -/
theorem requestRowsSelectOperations : Obligations.RequestRowsSelectOperations := by
  refine ⟨fun w row₁ row₂ h₁ h₂ hw₁ hw₂ => ?_, fun r => ?_⟩
  · exact row_eq_of_selects h₁ h₂ ((row₁.selects_iff w).2 hw₁) ((row₂.selects_iff w).2 hw₂)
  have spells {row : RequestRow} (hrow : row ∈ requestRows) (hw : r.word &&& row.mask = row.pattern) :=
    decodeRequest_ok_of_selects hrow ((row.selects_iff r.word).2 hw)
  refine ⟨fun h => ?_, fun h hn => ?_, fun h => ?_, fun h => ?_, fun h => ?_, fun h => ?_, fun h => ?_⟩
  · exact spells (row := ⟨.encode, 0x10000000, 0xFF000000⟩) (by decide) h rfl
  · exact spells (row := ⟨.decode, 0x20000000, 0xFFFFFF00⟩) (by decide) h (decide_eq_true hn)
  · exact spells (row := ⟨.extract, 0x30000000, 0xFFFFFFFF⟩) (by decide) h rfl
  · exact spells (row := ⟨.setDataMode, 0x40000000, 0xFFFFFFFE⟩) (by decide) h rfl
  · exact spells (row := ⟨.getPassive, 0x50000000, 0xFFFFFFFF⟩) (by decide) h rfl
  · exact spells (row := ⟨.getActive, 0x60000000, 0xFFFFFFFF⟩) (by decide) h rfl
  · exact spells (row := ⟨.sleepSet, 0x70000000, 0xFFFFFFFE⟩) (by decide) h rfl

/-! Refusals. -/

/-- A word with a reserved OP (R81). -/
theorem decodeRequest_of_reserved_opcode {r : Request} (h : Operation.ofCode (opField r.word) = none) :
    decodeRequest r = .error .reservedOpcode := by
  rw [decodeRequest_of_not_selects, h]
  · rfl
  · intro row hrow hw
    rw [opField_of_selects hrow hw, ofCode_code] at h
    cases h

/-- A word with the OP of a row and a bit set that the row compares with 0 (R82). -/
theorem decodeRequest_of_reserved_bits {r : Request} {row : RequestRow} {k n : Nat} (hrow : row ∈ requestRows)
    (hop : opField r.word = row.operation.code) (hmask : row.mask.extractLsb' k n = BitVec.allOnes n)
    (hpattern : row.pattern.extractLsb' k n = 0) (hbits : r.word.extractLsb' k n ≠ 0) :
    decodeRequest r = .error .reservedBits := by
  rw [decodeRequest_of_not_selects, hop, ofCode_code]
  · rfl
  · intro row' hrow' hw
    have hop' := (opField_of_selects hrow' hw).symm.trans hop
    cases row_eq_of_operation row' hrow' row hrow (code_injective hop')
    exact hbits ((extractLsb'_of_masked ((row.selects_iff r.word).1 hw) hmask).trans hpattern)

/-- A DECODE word, by its length (R83). -/
theorem decodeRequest_of_decode_word {r : Request} {n : Byte} (h : r.word = formatL 0x2 n) :
    decodeRequest r = if n.toNat ≤ 26 then .ok (.decode n) else .error .payloadTooLong := by
  have hrow : (⟨.decode, 0x20000000, 0xFFFFFF00⟩ : RequestRow) ∈ requestRows := by decide
  have hword : Operation.decode.wordOf r.word = r.word := by rw [Operation.wordOf, h, explenField_formatL]
  rw [decodeRequest_of_selects hrow ((selects_iff_wordOf hrow r.word).2 hword)]
  simp [Operation.instrOf, Instr.wf, h]

end Sys2Proof

/-! ## What a step runs, and what acceptance leaves (spec/10_state.md R27; spec/30_encoding.md R76, R81 to R84) -/

namespace Sys2Proof.Machine

theorem not_resetDue_of_nil {s : State} (h : s.resetLine = []) : ¬ ResetDue s := by
  rintro ⟨rest, hdue⟩
  rw [h] at hdue
  cases hdue

/-- With a request offered the step is the acceptance of what it decodes to. -/
theorem Offered.step_ok {s : State} {r : Request} {later : List Request} {i : Instr} (h : Offered s r later)
    (hd : decodeRequest r = .ok i) : step s = exec i { s with requests := later } := by
  apply step_of_run
  rw [fetch_of_resetLine_nil h.noReset, fetchByPhase_idle h.idle, fetchRequest_ok h.request hd]

theorem Offered.step_error {s : State} {r : Request} {later : List Request} {e : Reject} (h : Offered s r later)
    (hd : decodeRequest r = .error e) : step s = .refused (refusalOf e) :=
  step_of_refused_request h.idle (not_resetDue_of_nil h.noReset) h.request hd

/-- Settles O4: a reserved OP, a reserved bit of the row that OP names, and the DECODE words by their length. -/
theorem unspelledRequestsAreRefused : Obligations.UnspelledRequestsAreRefused := by
  intro s r later h
  refine ⟨fun hop => ?_, fun hbits => ?_, fun n hword => ?_⟩
  · have reserved : ∀ op : BitVec 4, op = 0 ∨ 8 ≤ op.toNat → Operation.ofCode op = none := by decide
    exact h.step_error (decodeRequest_of_reserved_opcode (reserved _ hop))
  · suffices hd : decodeRequest r = .error .reservedBits from h.step_error hd
    rcases hbits with ⟨hop, hbit⟩ | ⟨hop, hbit⟩ | ⟨hop | hop, hbit⟩ | ⟨hop | hop | hop, hbit⟩
    · exact decodeRequest_of_reserved_bits (row := ⟨.encode, 0x10000000, 0xFF000000⟩) (by decide) hop rfl rfl hbit
    · exact decodeRequest_of_reserved_bits (row := ⟨.decode, 0x20000000, 0xFFFFFF00⟩) (by decide) hop rfl rfl hbit
    · exact decodeRequest_of_reserved_bits (row := ⟨.setDataMode, 0x40000000, 0xFFFFFFFE⟩) (by decide) hop rfl rfl hbit
    · exact decodeRequest_of_reserved_bits (row := ⟨.sleepSet, 0x70000000, 0xFFFFFFFE⟩) (by decide) hop rfl rfl hbit
    · exact decodeRequest_of_reserved_bits (row := ⟨.extract, 0x30000000, 0xFFFFFFFF⟩) (by decide) hop rfl rfl hbit
    · exact decodeRequest_of_reserved_bits (row := ⟨.getPassive, 0x50000000, 0xFFFFFFFF⟩) (by decide) hop rfl rfl hbit
    · exact decodeRequest_of_reserved_bits (row := ⟨.getActive, 0x60000000, 0xFFFFFFFF⟩) (by decide) hop rfl rfl hbit
  · have hformat : r.word = formatL 0x2 n := by
      rw [hword]
      apply BitVec.eq_of_toNat_eq
      rw [toNat_formatL]
      bv_omega
    have hd := decodeRequest_of_decode_word hformat
    refine ⟨fun hlong => ?_, fun hn => ?_⟩
    · rw [if_neg (Nat.not_le.2 hlong)] at hd
      exact h.step_error hd
    · rw [if_pos hn] at hd
      exact h.step_ok hd

/-- Settles O7: `step_of_request`, where the fetch takes the head of the queue. -/
theorem stepRunsTheOldestRequest : Obligations.StepRunsTheOldestRequest :=
  fun _ _ _ _ hp hr hreq hd => step_of_request hp hr rfl hreq hd

/-! The words of the spec. -/

/-- Settles O5: by evaluation of the decoder at each of the numbers. -/
theorem specWordsDecode : Obligations.SpecWordsDecode := by
  unfold Obligations.SpecWordsDecode
  decide

/-- Settles O6: by evaluation of the encoder at each expansion. -/
theorem pseudoInstructionWords : Obligations.PseudoInstructionWords := by
  unfold Obligations.PseudoInstructionWords
  decide

/-! The wire command in progress. -/

/-- In ENC below index 7 of an operation that sends a command frame, the step runs the wire command that CMD and DATA
spell (R76). -/
theorem step_of_wireCommand {s : State} {op : Operation} {i : Instr} (hp : s.phase = .busy) (hfree : s.pending = none)
    (hr : ¬ ResetDue s) (henc : s.step = .enc) (hidx : s.idx.toNat < 7) (hop : s.op = op.code)
    (hsends : op ∈ [.setDataMode, .getPassive, .sleepSet]) (hi : decodeFrame (commandFrame s.cmd s.data) = .ok i) :
    step s = exec i { s with resetLine := s.resetLine.tail } := by
  refine step_of_instrInProgress hp hfree hr rfl (instrInProgress_wire (op := op) ?_ ?_ hi)
  · rw [← ofCode_code op, ← hop]
  · simp only [List.mem_cons, List.not_mem_nil, or_false] at hsends
    rcases hsends with rfl | rfl | rfl <;> simp [sendingWireCommand, henc, hidx, Config.commandFrameLength]

theorem admittedData_of_zero_or_one {d : Half} (h : d = 0 ∨ d = 1) : admittedData d = true := by
  rcases h with rfl | rfl <;> rfl

/-- Settles O9: CMD and DATA as each rule loads them are those of a wire command that the encoder writes. -/
theorem stepRunsTheWireCommandInProgress : Obligations.StepRunsTheWireCommandInProgress := by
  intro s hp hfree hr henc hidx
  have runs {op : Operation} {i : Instr} := step_of_wireCommand (op := op) (i := i) hp hfree hr henc hidx
  refine ⟨fun hop hcmd hdata => ?_, fun hop hcmd hdata => ?_, fun hop hcmd hdata => ?_⟩
  · refine runs (op := .setDataMode) hop (by decide) (decodeFrame_of_encode ?_ (admittedData_of_zero_or_one hdata))
    rw [hcmd]
    rfl
  · refine runs (op := .getPassive) hop (by decide) (decodeFrame_of_encode ?_ rfl)
    rw [hcmd, hdata]
    rfl
  · refine runs (op := .sleepSet) hop (by decide) (decodeFrame_of_encode ?_ (admittedData_of_zero_or_one hdata))
    rw [hcmd]
    rfl

/-! Acceptance. -/

/-- In IDLE a request that can be accepted is accepted (R84); `exec_idle_cases` is the converse. -/
theorem exec_of_acceptPart {i : Instr} {s t : State} (hp : s.phase = .idle) (h : acceptPart i s = some t) :
    exec i s = .next t := by
  cases i with
  | decode n =>
    simp only [acceptPart, Option.ite_none_right_eq_some] at h
    obtain ⟨hn, ⟨⟩⟩ := h
    simp only [exec, execDecode, hp, if_pos hn]
  | wireChangeMode d => cases h
  | wireReadPassive => cases h
  | wireSleepSet d => cases h
  | _ =>
    cases h
    simp only [exec, execEncode, execExtract, execSetDataMode, execGetPassive, execGetActive, execSleepSet, hp]

/-- Settles O13: `acceptPart` of ENCODE is that state. -/
theorem encodeAcceptance : Obligations.EncodeAcceptance :=
  fun _ _ _ hp => exec_of_acceptPart hp rfl

/-- Settles O24: acceptance up to the bound, and the refusal above it. -/
theorem decodeAcceptance : Obligations.DecodeAcceptance := by
  refine fun s n hp => ⟨fun hn => exec_of_acceptPart hp (if_pos hn), fun hn => ?_⟩
  simp only [exec, execDecode, hp]
  exact if_neg (Nat.not_le.2 hn)

/-- Settles O36: `acceptPart` of EXTRACT is that state. -/
theorem extractAcceptance : Obligations.ExtractAcceptance :=
  fun _ _ hp => exec_of_acceptPart hp rfl

/-- Settles O40: each of the four is what `acceptPart` names. -/
theorem compoundAcceptance : Obligations.CompoundAcceptance := by
  rintro s u m hp rfl
  exact ⟨exec_of_acceptPart hp rfl, exec_of_acceptPart hp rfl, exec_of_acceptPart hp rfl, exec_of_acceptPart hp rfl⟩

/-- Settles O16: the IDLE branch of each of the three meanings. -/
theorem wireCommandIsNoRequest : Obligations.WireCommandIsNoRequest := by
  intro s d hp
  refine ⟨?_, ?_, ?_⟩
  · simp only [exec, execWireChangeMode, hp]
  · simp only [exec, execWireReadPassive, hp]
  · simp only [exec, execWireSleepSet, hp]

end Sys2Proof.Machine

/-! ## What a step in BUSY does not read (spec/30_encoding.md R84; spec/70_reset_and_hazards.md R245)

In BUSY a meaning goes by its own operands, by STEP and by the working registers. It neither reads nor changes the queue
of requests, nor OP, which only the fetch reads: an update of the two can be made before the step or after it. -/

namespace Sys2Proof.Machine

/-- The state with the queue of requests and OP changed. -/
def relabel (queue : List Request → List Request) (code : BitVec 4 → BitVec 4) (s : State) : State :=
  { s with requests := queue s.requests, op := code s.op }

/-- An outcome with its next state changed. -/
def mapNext (f : State → State) : Result3 → Result3
  | .next t => .next (f t)
  | .fault e => .fault e
  | .refused r => .refused r

section
variable {queue : List Request → List Request} {code : BitVec 4 → BitVec 4}

theorem txWrite_relabel {onOk : State → State} (hok : ∀ t, onOk (relabel queue code t) = relabel queue code (onOk t))
    (b : Byte) (s : State) : txWrite b onOk (relabel queue code s) = relabel queue code (txWrite b onOk s) := by
  rcases h : s.txAnswers with _ | ⟨_ | _ | _, rest⟩
  · rw [txWrite_nil b onOk h, txWrite_nil (s := relabel queue code s) b onOk h]
    rfl
  · rw [txWrite_ok b onOk h, txWrite_ok (s := relabel queue code s) b onOk h]
    exact hok { s with txAnswers := rest, trace := s.trace ++ [.write b .ok] }
  · rw [txWrite_fail b onOk h, txWrite_fail (s := relabel queue code s) b onOk h]
    rfl
  · rw [txWrite_never b onOk h, txWrite_never (s := relabel queue code s) b onOk h]
    rfl

theorem rxRead_relabel {onByte : Byte → State → Result3}
    (hbyte : ∀ b t, onByte b (relabel queue code t) = mapNext (relabel queue code) (onByte b t)) (s : State) :
    rxRead onByte (relabel queue code s) = mapNext (relabel queue code) (rxRead onByte s) := by
  rcases h : s.rxAnswers with _ | ⟨b | _ | _, rest⟩
  · rw [rxRead_nil onByte h, rxRead_nil (s := relabel queue code s) onByte h]
    rfl
  · rw [rxRead_byte onByte h, rxRead_byte (s := relabel queue code s) onByte h]
    exact hbyte b { s with rxAnswers := rest, trace := s.trace ++ [.read (.byte b)] }
  · rw [rxRead_fail onByte h, rxRead_fail (s := relabel queue code s) onByte h]
    rfl
  · rw [rxRead_never onByte h, rxRead_never (s := relabel queue code s) onByte h]
    rfl

theorem framePart_after_relabel {i : Instr} {c : Byte} {d : Half} {after : State → State}
    (h : framePart i = some (c, d, after)) (s : State) :
    after (relabel queue code s) = relabel queue code (after s) := by
  rcases framePart_after_cases h with rfl | ⟨n, rfl⟩ <;> rfl

theorem receivePart_after_relabel {i : Instr} {n : Nat} {after : State → State}
    (h : receivePart i = some (n, after)) (s : State) :
    after (relabel queue code s) = relabel queue code (after s) := by
  rcases receivePart_after_cases h with rfl | rfl | rfl <;> rfl

theorem sendFrame_relabel {after : State → State}
    (hafter : ∀ t, after (relabel queue code t) = relabel queue code (after t)) (c : Byte) (d : Half) (s : State) :
    sendFrame c d after (relabel queue code s) = mapNext (relabel queue code) (sendFrame c d after s) := by
  have write : encStep c d after (relabel queue code s) = relabel queue code (encStep c d after s) := by
    refine txWrite_relabel (onOk := afterWrite c d after) (fun t => ?_) _ s
    have done := hafter { t with sum := encoderSum c d t.sum t.idx.toNat, idx := t.idx + 1 }
    rw [afterWrite, afterWrite, apply_ite (relabel queue code), ← done]
    rfl
  rw [sendFrame, sendFrame, write, apply_ite (mapNext (relabel queue code))]
  rfl

theorem check_relabel (ok : Bool) (kind : ErrorKind) (s : State) :
    check ok kind (relabel queue code s) = relabel queue code (check ok kind s) := by
  cases ok <;> rfl

theorem decodeField_relabel {n : Nat} {after : State → State}
    (hafter : ∀ t, after (relabel queue code t) = relabel queue code (after t)) (field : FrameField) (b : Byte)
    (s : State) :
    decodeField n after field b (relabel queue code s) =
      mapNext (relabel queue code) (decodeField n after field b s) := by
  cases field with
  | start1 => exact congrArg Host.Outcome.next (check_relabel _ _ (summed b s))
  | start2 => exact congrArg Host.Outcome.next (check_relabel _ _ (summed b s))
  | lenHi => rfl
  | lenLo => exact congrArg Host.Outcome.next (check_relabel _ _ { summed b s with len := setLo s.len b })
  | payload i =>
    by_cases hi : i < Config.maxPayload
    · simp only [decodeField, writePayload, dif_pos hi]
      rfl
    · simp only [decodeField, writePayload, dif_neg hi]
      rfl
  | chkHi => rfl
  | chkLo =>
    have done := hafter { s with rxchk := setLo s.rxchk b, idx := s.idx + 1, plen := BitVec.ofNat 8 n }
    rw [decodeField, decodeField, apply_ite (mapNext (relabel queue code)), mapNext, ← done]
    rfl

theorem decStep_relabel {n : Nat} {after : State → State}
    (hafter : ∀ t, after (relabel queue code t) = relabel queue code (after t)) (s : State) :
    decStep n after (relabel queue code s) = mapNext (relabel queue code) (decStep n after s) := by
  have hidx : (relabel queue code s).idx = s.idx := rfl
  rw [decStep, decStep, hidx]
  cases fieldAt n s.idx.toNat with
  | none => rfl
  | some field => exact rxRead_relabel (decodeField_relabel hafter field) s

theorem verifyAndComplete_relabel (c m : Byte) (s : State) :
    verifyAndComplete c m (relabel queue code s) = relabel queue code (verifyAndComplete c m s) := by
  rw [verifyAndComplete, verifyAndComplete, apply_ite (relabel queue code)]
  rfl

/-- In BUSY a meaning reads neither the queue nor OP, and changes neither. -/
theorem exec_relabel {s : State} (hp : s.phase = .busy) (i : Instr) :
    exec i (relabel queue code s) = mapNext (relabel queue code) (exec i s) := by
  have hp' : (relabel queue code s).phase = .busy := hp
  have hstep : (relabel queue code s).step = s.step := rfl
  have hidx : (relabel queue code s).idx = s.idx := rfl
  have send {i c d after} (h : framePart i = some (c, d, after)) := sendFrame_relabel
    (queue := queue) (code := code) (framePart_after_relabel h) c d s
  have receive {i n after} (h : receivePart i = some (n, after)) := decStep_relabel
    (queue := queue) (code := code) (n := n) (receivePart_after_relabel h) s
  cases i with
  | encode c d =>
    rw [exec_encode_busy hp, exec_encode_busy hp', hstep, hidx, send (i := .encode c d) rfl, apply_ite (mapNext _)]
    rfl
  | decode n =>
    rw [exec_decode_busy hp, exec_decode_busy hp', hstep, hidx, receive (i := .decode n) rfl, apply_ite (mapNext _),
      apply_ite (mapNext _)]
    rfl
  | extract a =>
    rw [exec_extract_busy hp, exec_extract_busy hp', hstep, apply_ite (mapNext _)]
    rfl
  | setDataMode m =>
    rw [exec_setDataMode_busy hp, exec_setDataMode_busy hp', hstep]
    cases s.step with
    | enc => exact send (i := .setDataMode m) rfl
    | dec => exact receive (i := .setDataMode m) rfl
    | ver => exact congrArg Host.Outcome.next (verifyAndComplete_relabel _ _ s)
    | ext => rfl
  | getPassive =>
    rw [exec_getPassive_busy hp, exec_getPassive_busy hp', hstep]
    cases s.step with
    | enc => exact send (i := .getPassive) rfl
    | dec => exact receive (i := .getPassive) rfl
    | ver => rfl
    | ext => rfl
  | getActive =>
    rw [exec_getActive_busy hp, exec_getActive_busy hp', hstep]
    cases s.step with
    | enc => rfl
    | dec => exact receive (i := .getActive) rfl
    | ver => rfl
    | ext => rfl
  | sleepSet m =>
    rw [exec_sleepSet_busy hp, exec_sleepSet_busy hp', hstep, hidx]
    cases s.step with
    | enc =>
      dsimp only
      rw [send (i := .sleepSet m) rfl, apply_ite (mapNext _)]
      rfl
    | dec =>
      dsimp only
      rw [← Config.responseLength, receive (i := .sleepSet 0) rfl, apply_ite (mapNext _)]
      rfl
    | ver =>
      dsimp only
      rw [verifyAndComplete_relabel, apply_ite (mapNext _)]
      rfl
    | ext => rfl
  | wireChangeMode d =>
    rw [exec_wireChangeMode_busy hp, exec_wireChangeMode_busy hp']
    exact send (i := .wireChangeMode d) rfl
  | wireReadPassive =>
    rw [exec_wireReadPassive_busy hp, exec_wireReadPassive_busy hp']
    exact send (i := .wireReadPassive) rfl
  | wireSleepSet d =>
    rw [exec_wireSleepSet_busy hp, exec_wireSleepSet_busy hp']
    exact send (i := .wireSleepSet d) rfl

end

/-! The queue is not read by the fetch in BUSY either. -/

/-- The state with another queue of requests. -/
def requeue (queue : List Request) : State → State := relabel (fun _ => queue) id

theorem instrInProgress_requeue (queue : List Request) (s : State) :
    instrInProgress (requeue queue s) = instrInProgress s := by
  have hi (op : Operation) : operationInstr op (requeue queue s) = operationInstr op s := by
    cases op <;> rfl
  unfold instrInProgress
  simp only [hi]
  rfl

/-- In BUSY a step faults where OP, CMD and DATA name nothing that could be in progress. -/
theorem step_of_no_instrInProgress {s u : State} (hp : s.phase = .busy) (hfree : s.pending = none) (hr : ¬ ResetDue s)
    (hu : u = { s with resetLine := s.resetLine.tail }) (hi : instrInProgress u = none) :
    step s = .fault .sequencer := by
  have hp' : u.phase = .busy := by rw [hu]; exact hp
  have hfree' : u.pending = none := by rw [hu]; exact hfree
  have hfetch : fetch s = .fault .sequencer := by
    rw [fetch_of_not_resetDue hr, ← hu, fetchByPhase_busy hp', fetchBusy_none hfree' hi]
  simp only [step, hfetch]

/-- In BUSY a step with another queue is the step, with the other queue after it. -/
theorem step_requeue {s : State} (hp : s.phase = .busy) (queue : List Request) :
    step (requeue queue s) = mapNext (requeue queue) (step s) := by
  by_cases hr : ResetDue s
  · obtain ⟨rest, hline⟩ := hr
    rw [step_of_reset hline, step_of_reset (s := requeue queue s) hline]
    rfl
  have hr' : ¬ ResetDue (requeue queue s) := hr
  by_cases hfree : s.pending = none
  · generalize hu : ({ s with resetLine := s.resetLine.tail } : State) = u
    have hu' : requeue queue u = { requeue queue s with resetLine := (requeue queue s).resetLine.tail } := by
      rw [← hu]
      rfl
    have hp' : u.phase = .busy := by rw [← hu]; exact hp
    have hi := instrInProgress_requeue queue u
    rcases hrun : instrInProgress u with _ | i <;> rw [hrun] at hi
    · rw [step_of_no_instrInProgress hp hfree hr hu.symm hrun,
        step_of_no_instrInProgress (s := requeue queue s) hp hfree hr' hu' hi]
      rfl
    · rw [step_of_instrInProgress hp hfree hr hu.symm hrun,
        step_of_instrInProgress (s := requeue queue s) hp hfree hr' hu' hi]
      exact exec_relabel hp' i
  · rw [step_of_outstanding hp hr rfl hfree, step_of_outstanding (s := requeue queue s) hp hr' rfl hfree]
    rfl

/-- Settles O10: `step_requeue`. -/
theorem requestsAreHeldWhileBusy : Obligations.RequestsAreHeldWhileBusy := by
  intro s queue hp
  refine (step_requeue hp queue).trans ?_
  cases step s <;> rfl

end Sys2Proof.Machine

/-! ## Sending a command frame (spec/40_frame_encoder.md R100, R101, R103)

One write by the answer it gets, and a run of accepted writes: `runSteps_writes` gives the state after any number of
them up to six, `runSteps_frame` the state after all seven. -/

namespace Sys2Proof.Machine

theorem idx_eq_six_iff {s : State} : s.idx = 6 ↔ s.idx.toNat = 6 :=
  BitVec.toNat_inj.symm

/-- An accepted write of ENC (R101): the byte is that of the frame, SUM and IDX move on, and after index 6 the frame is
done. -/
theorem encStep_of_ok {c b : Byte} {d : Half} {after : State → State} {s u : State} {rest : List TxAnswer}
    (hb : (commandFrame c d)[s.idx.toNat]? = some b) (hsum : s.sum = coveredSum c d s.idx.toNat)
    (htx : s.txAnswers = .ok :: rest)
    (hu : u = { s with
      txAnswers := rest, trace := s.trace ++ [.write b .ok], sum := coveredSum c d (s.idx.toNat + 1),
      idx := s.idx + 1 }) :
    encStep c d after s = if s.idx.toNat = 6 then after u else u := by
  obtain ⟨hidx, _⟩ := List.getElem?_eq_some_iff.1 hb
  rw [encStep_eq_txWrite, txWrite_ok _ _ htx, hsum, encoderByte_coveredSum hb]
  simp only [afterWrite, idx_eq_six_iff, encoderSum_coveredSum c d hidx, hu]

/-- A failed write of ENC (R103). -/
theorem encStep_of_fail {c b : Byte} {d : Half} {after : State → State} {s : State} {rest : List TxAnswer}
    (hb : (commandFrame c d)[s.idx.toNat]? = some b) (hsum : s.sum = coveredSum c d s.idx.toNat)
    (htx : s.txAnswers = .fail :: rest) :
    encStep c d after s =
      raise .writeFailure { s with txAnswers := rest, trace := s.trace ++ [.write b .fail] } := by
  rw [encStep_eq_txWrite, txWrite_fail _ _ htx, hsum, encoderByte_coveredSum hb, ← hsum]

/-- What follows the frame of each wire command: DEC of its compound operation, or nothing for Wakeup (R76, R170, R171,
R173). -/
theorem framePart_wireCommand {i : Instr} {c : Byte} {d : Half}
    (h : (i = .wireChangeMode d ∧ c = 0xE1) ∨ (i = .wireReadPassive ∧ c = 0xE2 ∧ d = 0) ∨
      (i = .wireSleepSet d ∧ c = 0xE4)) :
    ∃ after, framePart i = some (c, d, after) ∧ (c = 0xE1 → after = beginDec 2) ∧ (c = 0xE2 → after = beginDec 26) ∧
      (c = 0xE4 → d = 0 → after = beginDec 2) ∧ (c = 0xE4 → d = 1 → after = id) := by
  rcases h with ⟨rfl, rfl⟩ | ⟨rfl, rfl, rfl⟩ | ⟨rfl, rfl⟩
  · exact ⟨_, rfl, fun _ => rfl, by simp, by simp, by simp⟩
  · exact ⟨_, rfl, by simp, fun _ => rfl, by simp, by simp⟩
  · refine ⟨_, rfl, by simp, by simp, fun _ hd => ?_, fun _ hd => ?_⟩ <;> rw [hd] <;> rfl

/-- Settles O15: the write of `exec_of_framePart`, accepted or failed, and what follows the frame. -/
theorem wireCommandStepTable : Obligations.WireCommandStepTable := by
  rintro s i c d _ b rest hi hp henc rfl hb hsum
  obtain ⟨after, hframe, hchange, hread, hsleep, hwakeup⟩ := framePart_wireCommand hi
  obtain ⟨hidx, _⟩ := List.getElem?_eq_some_iff.1 hb
  rw [exec_of_framePart hp hframe henc hidx]
  refine ⟨fun u htx hu => ?_, fun htx => by rw [encStep_of_fail hb hsum htx]; rfl⟩
  rw [encStep_of_ok hb hsum htx hu]
  refine ⟨fun hlt => by rw [if_neg hlt.ne], fun h6 hc => ?_, fun h6 hc => ?_, fun h6 hc hd => ?_, fun h6 hc hd => ?_⟩
  · rw [if_pos h6, hchange hc]
    rfl
  · rw [if_pos h6, hread hc]
    rfl
  · rw [if_pos h6, hsleep hc hd]
    rfl
  · rw [if_pos h6, hwakeup hc hd]
    rfl

/-! Runs. -/

/-- The operation `op` is in progress, no call is outstanding, and no reset comes. -/
structure Running (op : Operation) (s : State) : Prop where
  busy : s.phase = .busy
  free : s.pending = none
  noReset : s.resetLine = []
  operation : Operation.ofCode s.op = some op

theorem eq_sampled_of_nil {s : State} (h : s.resetLine = []) : s = { s with resetLine := s.resetLine.tail } := by
  cases s
  cases h
  rfl

/-- With the reset input at rest a step of an operation in its rule is its meaning at the state itself. -/
theorem Running.step_eq {op : Operation} {s : State} (h : Running op s) (hseq : Sequenced s) :
    step s = exec (operationInstr op s) s :=
  step_eq_exec_operation h.busy h.free (not_resetDue_of_nil h.noReset) (eq_sampled_of_nil h.noReset) h.operation hseq

/-- The operation `op` has started ENC(c, d) and made no write yet; after the frame it goes on with `after`. -/
structure Sending (op : Operation) (s : State) (c : Byte) (d : Half) (after : State → State) : Prop
    extends Running op s where
  frame : framePart (operationInstr op s) = some (c, d, after)
  inEnc : InEnc s c d 6
  start : s.idx = 0

/-- The state after `k` accepted writes of the frame, with the answers `rest` to come. -/
def written (c : Byte) (d : Half) (k : Nat) (rest : List TxAnswer) (s : State) : State :=
  { s with
    txAnswers := rest, trace := s.trace ++ writesOk ((commandFrame c d).take k), sum := coveredSum c d k,
    idx := BitVec.ofNat 8 k }

section
variable {op : Operation} {s : State} {c : Byte} {d : Half} {after : State → State}

/-- Nothing is written at the start. -/
theorem Sending.written_zero (h : Sending op s c d after) : written c d 0 s.txAnswers s = s := by
  obtain ⟨_, _, _, _, hsum⟩ := h.inEnc
  have hstart := h.start
  rw [hstart] at hsum
  cases s
  simp_all [written, writesOk]

/-- The step after `k` accepted writes is the write at index `k`. -/
theorem Sending.step_written (h : Sending op s c d after) {k : Nat} (hk : k < 7) (rest : List TxAnswer) :
    step (written c d k rest s) = .next (encStep c d after (written c d k rest s)) := by
  obtain ⟨hstep, _, hcmd, hdata, _⟩ := h.inEnc
  have hidx : (written c d k rest s).idx.toNat = k := by
    simp only [written, BitVec.toNat_ofNat]
    omega
  have hframe : framePart (operationInstr op (written c d k rest s)) = some (c, d, after) := by
    rw [← h.frame]
    cases op <;> rfl
  have henc : InEnc (written c d k rest s) c d 6 := ⟨hstep, by omega, hcmd, hdata, by rw [hidx]; rfl⟩
  have running : Running op (written c d k rest s) := ⟨h.busy, h.free, h.noReset, h.operation⟩
  rw [running.step_eq (sequenced_of_inEnc running.operation hframe henc),
    exec_of_framePart running.busy hframe hstep (by omega)]

/-- An accepted write after `k` accepted writes. -/
theorem Sending.step_written_ok (h : Sending op s c d after) {k : Nat} (hk : k < 7) (rest : List TxAnswer) :
    step (written c d k (.ok :: rest) s) =
      .next (if k = 6 then after (written c d (k + 1) rest s) else written c d (k + 1) rest s) := by
  have hidx : (written c d k (.ok :: rest) s).idx.toNat = k := by
    simp only [written, BitVec.toNat_ofNat]
    omega
  have hlt : k < (commandFrame c d).length := hk
  have hb : (commandFrame c d)[(written c d k (.ok :: rest) s).idx.toNat]? = some (commandFrame c d)[k] := by
    rw [hidx, List.getElem?_eq_getElem hlt]
  rw [h.step_written hk, encStep_of_ok (u := written c d (k + 1) rest s) hb (by rw [hidx]; rfl) rfl, hidx]
  rw [hidx]
  simp only [written, writesOk, List.take_add_one, List.getElem?_eq_getElem hlt, Option.toList_some, List.map_append,
    List.map_cons, List.map_nil, List.append_assoc, BitVec.ofNat_add]
  rfl

/-- A run of `k` accepted writes, up to the last but one. -/
theorem Sending.runSteps_writes (h : Sending op s c d after) {k : Nat} (hk : k ≤ 6) {rest : List TxAnswer}
    (htx : s.txAnswers = List.replicate k .ok ++ rest) : runSteps k s = .next (written c d k rest s) := by
  induction k generalizing rest with
  | zero =>
    have hrest : rest = s.txAnswers := htx.symm
    rw [hrest, h.written_zero, runSteps_zero]
  | succ k ih =>
    have hbefore := ih (rest := .ok :: rest) (by omega) (by rw [htx, List.replicate_succ', List.append_assoc]; rfl)
    rw [runSteps_add 1 hbefore, runSteps_succ 0 (h.step_written_ok (by omega) rest), if_neg (by omega), runSteps_zero]

/-- A run of all seven writes, accepted. -/
theorem Sending.runSteps_frame (h : Sending op s c d after) {rest : List TxAnswer}
    (htx : s.txAnswers = List.replicate 7 .ok ++ rest) : runSteps 7 s = .next (after (written c d 7 rest s)) := by
  have hbefore := h.runSteps_writes (k := 6) (rest := .ok :: rest) le_rfl htx
  rw [runSteps_add 1 hbefore, runSteps_succ 0 (h.step_written_ok (by omega) rest), if_pos rfl, runSteps_zero]

end

end Sys2Proof.Machine

/-! ## Receiving a frame (spec/41_frame_decoder.md R120 to R126)

A run of reads whose bytes no check refuses: `runSteps_reads` gives the state after any number of them short of the whole
frame, `step_lastRead` what the second checksum byte leads to, `runSteps_acceptedFrame` the run over an accepted frame. -/

namespace Sys2Proof.Machine

/-- The operation `op` has started DEC(n) and made no read yet; after an accepted frame it goes on with `after`. -/
structure Receiving (op : Operation) (s : State) (n : Nat) (after : State → State) : Prop extends Running op s where
  receive : receivePart (operationInstr op s) = some (n, after)
  subOp : s.step = .dec
  explen : s.explen.toNat = n
  bound : n ≤ Config.maxPayload
  start : s.idx = 0
  sum : s.sum = 0

/-- LEN, RXCHK and PAYLOAD hold what the bytes read so far put there (R121). -/
structure Holds (n : Nat) (bytes : List Byte) (len rxchk : Half) (payload : Vector Byte Config.maxPayload) : Prop where
  lenHi : ∀ h, bytes[2]? = some h → hiByte len = h
  len : 4 ≤ bytes.length → len = BitVec.ofNat 16 (n + 2)
  rxchkHi : ∀ h, bytes[n + 4]? = some h → hiByte rxchk = h
  payload : ∀ j, j < n → j + 4 < bytes.length → payload[j]? = bytes[j + 4]?

/-- The state after the reads of `bytes`, with the answers `rest` to come. -/
def received (n : Nat) (bytes : List Byte) (rest : List RxAnswer) (len rxchk : Half)
    (payload : Vector Byte Config.maxPayload) (s : State) : State :=
  { s with
    rxAnswers := rest, trace := s.trace ++ readsOk bytes, idx := BitVec.ofNat 8 bytes.length,
    sum := sumBytes (bytes.take (n + 4)), len := len, rxchk := rxchk, payload := payload }

/-! Bytes that no check has refused. -/

theorem NotYetRefused.of_append {n : Nat} {bytes more : List Byte} (h : NotYetRefused n (bytes ++ more)) :
    NotYetRefused n bytes := by
  obtain ⟨hfirst, hsecond, hlen⟩ := h
  have stays {k : Nat} {b : Byte} (hb : bytes[k]? = some b) : (bytes ++ more)[k]? = some b := by
    obtain ⟨hk, _⟩ := List.getElem?_eq_some_iff.1 hb
    rw [List.getElem?_append_left hk, hb]
  exact ⟨fun b hb => hfirst b (stays hb), fun b hb => hsecond b (stays hb),
    fun x y hx hy => hlen x y (stays hx) (stays hy)⟩

/-- The length field of bytes that no check has refused is `n + 2`, read high byte first (R122). -/
theorem NotYetRefused.setLo_eq {n : Nat} {bytes : List Byte} {h b : Byte} (hok : NotYetRefused n (bytes ++ [b]))
    (hlength : bytes.length = 3) (hh : bytes[2]? = some h) {len : Half} (hlen : hiByte len = h) :
    setLo len b = BitVec.ofNat 16 (n + 2) := by
  have hfield : (h ++ b : Half).toNat = n + 2 := by
    refine hok.2.2 h b ?_ ?_
    · rw [List.getElem?_append_left (by omega), hh]
    · rw [← hlength, List.getElem?_concat_length]
  rw [setLo, hlen]
  apply BitVec.eq_of_toNat_eq
  rw [hfield, BitVec.toNat_ofNat, Nat.mod_eq_of_lt (hfield ▸ (h ++ b : Half).isLt)]

/-! One more byte. -/

/-- The registers after one more byte: it goes to LEN, RXCHK or PAYLOAD where its index says so, and nowhere else. -/
theorem Holds.snoc {n : Nat} {bytes : List Byte} {len len' rxchk rxchk' : Half}
    {payload payload' : Vector Byte Config.maxPayload} {b : Byte} (h : Holds n bytes len rxchk payload)
    (hlenHi : hiByte len' = if bytes.length = 2 then b else hiByte len)
    (hlen : 3 ≤ bytes.length → len' = if bytes.length = 3 then BitVec.ofNat 16 (n + 2) else len)
    (hrxchk : hiByte rxchk' = if bytes.length = n + 4 then b else hiByte rxchk)
    (hpayload : ∀ j, j < n → payload'[j]? = if bytes.length = j + 4 then some b else payload[j]?) :
    Holds n (bytes ++ [b]) len' rxchk' payload' := by
  have byteAt {k : Nat} (hk : bytes.length ≠ k) {x : Byte} (hx : (bytes ++ [b])[k]? = some x) : bytes[k]? = some x := by
    obtain ⟨hlt, _⟩ := List.getElem?_eq_some_iff.1 hx
    rw [List.length_append, List.length_singleton] at hlt
    rwa [List.getElem?_append_left (by omega)] at hx
  have lastByte {k : Nat} (hk : bytes.length = k) : (bytes ++ [b])[k]? = some b := by
    rw [← hk, List.getElem?_concat_length]
  refine ⟨fun x hx => ?_, fun h4 => ?_, fun x hx => ?_, fun j hj hj4 => ?_⟩
  · rw [hlenHi]
    split
    case isTrue hat => exact Option.some.inj ((lastByte hat).symm.trans hx)
    case isFalse hat => exact h.lenHi x (byteAt hat hx)
  · rw [List.length_append, List.length_singleton] at h4
    rw [hlen (by omega)]
    split
    case isTrue => rfl
    case isFalse hat => exact h.len (by omega)
  · rw [hrxchk]
    split
    case isTrue hat => exact Option.some.inj ((lastByte hat).symm.trans hx)
    case isFalse hat => exact h.rxchkHi x (byteAt hat hx)
  · rw [List.length_append, List.length_singleton] at hj4
    rw [hpayload j hj]
    split
    case isTrue hat => exact (lastByte hat).symm
    case isFalse hat => rw [h.payload j hj (by omega), List.getElem?_append_left (by omega)]

section
variable {n : Nat} {bytes : List Byte} {b : Byte} {rest : List RxAnswer} {len rxchk : Half}
  {payload : Vector Byte Config.maxPayload} {s u : State}

/-- A summed byte (R121). -/
theorem summed_received (hlt : bytes.length < n + 4)
    (hu : u = { received n bytes (.byte b :: rest) len rxchk payload s with
      rxAnswers := rest, trace := (received n bytes (.byte b :: rest) len rxchk payload s).trace ++ [.read (.byte b)] })
    (len' : Half) (payload' : Vector Byte Config.maxPayload) :
    { summed b u with len := len', payload := payload' } = received n (bytes ++ [b]) rest len' rxchk payload' s := by
  have htake : bytes.take (n + 4) = bytes := List.take_of_length_le hlt.le
  have htake' : (bytes ++ [b]).take (n + 4) = bytes ++ [b] := List.take_of_length_le (by simp; omega)
  simp only [hu, summed, received, htake, htake', sumBytes, List.foldl_append, List.foldl_cons, List.foldl_nil, readsOk,
    List.map_append, List.map_cons, List.map_nil, List.append_assoc, List.length_append, List.length_cons,
    List.length_nil, BitVec.ofNat_add]
  rfl

/-- A checksum byte (R121). -/
theorem unsummed_received (hge : n + 4 ≤ bytes.length)
    (hu : u = { received n bytes (.byte b :: rest) len rxchk payload s with
      rxAnswers := rest, trace := (received n bytes (.byte b :: rest) len rxchk payload s).trace ++ [.read (.byte b)] })
    (rxchk' : Half) :
    { u with rxchk := rxchk', idx := u.idx + 1 } = received n (bytes ++ [b]) rest len rxchk' payload s := by
  have htake : (bytes ++ [b]).take (n + 4) = bytes.take (n + 4) := List.take_append_of_le_length hge
  simp only [hu, received, htake, readsOk, List.map_append, List.map_cons, List.map_nil, List.append_assoc,
    List.length_append, List.length_cons, List.length_nil, BitVec.ofNat_add]
  rfl

/-- What DEC does with a byte that is neither refused nor the last (R121). -/
theorem decodeField_received {field : FrameField} (h : Holds n bytes len rxchk payload)
    (hok : NotYetRefused n (bytes ++ [b])) (hn : n ≤ Config.maxPayload) (hlt : bytes.length < n + 5)
    (hfield : fieldAt n bytes.length = some field)
    (hu : u = { received n bytes (.byte b :: rest) len rxchk payload s with
      rxAnswers := rest, trace := (received n bytes (.byte b :: rest) len rxchk payload s).trace ++ [.read (.byte b)] })
    (after : State → State) :
    ∃ len' rxchk' payload', Holds n (bytes ++ [b]) len' rxchk' payload' ∧
      decodeField n after field b u = .next (received n (bytes ++ [b]) rest len' rxchk' payload' s) := by
  have hlen : u.len = len := by rw [hu]; rfl
  have hrxchk : u.rxchk = rxchk := by rw [hu]; rfl
  have hpayload : u.payload = payload := by rw [hu]; rfl
  have lastByte {k : Nat} (hk : bytes.length = k) : (bytes ++ [b])[k]? = some b := by
    rw [← hk, List.getElem?_concat_length]
  have startByte (hlt : bytes.length < n + 4) : summed b u = received n (bytes ++ [b]) rest len rxchk payload s := by
    rw [← summed_received hlt hu len payload, ← hlen, ← hpayload]
    rfl
  rcases fieldAt_cases hfield with ⟨rfl, hat⟩ | ⟨rfl, hat⟩ | ⟨rfl, hat⟩ | ⟨rfl, hat⟩ | ⟨i, rfl, hat, hi⟩ | ⟨rfl, hat⟩ |
    ⟨rfl, hat⟩
  · refine ⟨len, rxchk, payload, h.snoc (by simp [hat]) (by omega) (by simp [hat]) (by simp [hat]), ?_⟩
    have hb : b = 0x42 := hok.1 b (lastByte hat)
    rw [decodeField, check, if_pos (by simp [hb]), startByte (by omega)]
  · refine ⟨len, rxchk, payload, h.snoc (by simp [hat]) (by omega) ?_ (by simp [hat]), ?_⟩
    · rw [if_neg (by omega)]
    have hb : b = 0x4D := hok.2.1 b (lastByte hat)
    rw [decodeField, check, if_pos (by simp [hb]), startByte (by omega)]
  · refine ⟨setHi len b, rxchk, payload, h.snoc (by simp [hat]) (by omega) ?_ (by simp [hat]), ?_⟩
    · rw [if_neg (by omega)]
    rw [decodeField, ← summed_received (by omega) hu, ← hlen, ← hpayload]
    rfl
  · obtain ⟨x, hx⟩ : ∃ x, bytes[2]? = some x := ⟨_, List.getElem?_eq_getElem (by omega)⟩
    have hlo := hok.setLo_eq hat hx (h.lenHi x hx)
    refine ⟨setLo len b, rxchk, payload, h.snoc ?_ (by simp [hat, hlo]) ?_ (by simp [hat]), ?_⟩
    · rw [if_neg (by omega)]
      exact hiByte_be16 _ _
    · rw [if_neg (by omega)]
    rw [decodeField, hlen, check, if_pos (beq_iff_eq.2 hlo), ← summed_received (by omega) hu, ← hpayload]
    rfl
  · have hi' : i < Config.maxPayload := by omega
    refine ⟨len, rxchk, payload.set i b hi', h.snoc ?_ (fun _ => ?_) ?_ fun j hj => ?_, ?_⟩
    · rw [if_neg (by omega)]
    · rw [if_neg (by omega)]
    · rw [if_neg (by omega)]
    · rw [Vector.getElem?_set, hat]
      simp
    rw [decodeField, writePayload, dif_pos hi', ← summed_received (by omega) hu, ← hlen, ← hpayload]
    rfl
  · refine ⟨len, setHi rxchk b, payload, h.snoc ?_ (fun _ => ?_) (by simp [hat]) fun j hj => ?_, ?_⟩
    · rw [if_neg (by omega)]
    · rw [if_neg (by omega)]
    · rw [if_neg (by omega)]
    rw [decodeField, hrxchk, ← unsummed_received (by omega) hu]
  · omega

end

/-! Runs of reads. -/

section
variable {op : Operation} {s : State} {n : Nat} {after : State → State}

/-- Nothing is read at the start. -/
theorem Receiving.received_nil (h : Receiving op s n after) :
    received n [] s.rxAnswers s.len s.rxchk s.payload s = s := by
  have hstart := h.start
  have hsum := h.sum
  cases s
  simp_all [received, readsOk, sumBytes]

theorem holds_nil (n : Nat) (len rxchk : Half) (payload : Vector Byte Config.maxPayload) :
    Holds n [] len rxchk payload := by
  constructor <;> simp

/-- The step after the reads of `bytes`, short of the whole frame, is the next read. -/
theorem Receiving.step_received (h : Receiving op s n after) {bytes : List Byte} (hlt : bytes.length < n + 6)
    {len rxchk : Half} {payload : Vector Byte Config.maxPayload} (hheld : Holds n bytes len rxchk payload)
    (rest : List RxAnswer) :
    ∃ field, fieldAt n bytes.length = some field ∧
      step (received n bytes rest len rxchk payload s) =
        rxRead (decodeField n after field) (received n bytes rest len rxchk payload s) := by
  have hn : n ≤ 26 := h.bound
  have hidx : (received n bytes rest len rxchk payload s).idx.toNat = bytes.length := by
    simp only [received, BitVec.toNat_ofNat]
    omega
  have hrecv : receivePart (operationInstr op (received n bytes rest len rxchk payload s)) = some (n, after) := by
    rw [← h.receive]
    cases op <;> rfl
  have running : Running op (received n bytes rest len rxchk payload s) := ⟨h.busy, h.free, h.noReset, h.operation⟩
  have hdec : InDec (received n bytes rest len rxchk payload s) n (n + 5) := by
    refine ⟨h.subOp, h.explen, h.bound, by omega, fun hat => hheld.len (by omega), fun hat => ?_⟩
    simp only [Config.frameOverhead] at hat
    omega
  obtain ⟨field, hfield⟩ := Option.isSome_iff_exists.1 ((fieldAt_isSome_iff n bytes.length).2 hlt)
  refine ⟨field, hfield, ?_⟩
  rw [running.step_eq (sequenced_of_inDec running.operation hrecv hdec),
    exec_of_receivePart running.busy hrecv h.subOp (by omega), decStep_of_field (by rw [hidx, hfield])]

/-- A run of reads short of the whole frame, whose bytes no check refuses. -/
theorem Receiving.runSteps_reads (h : Receiving op s n after) {bytes : List Byte} (hlt : bytes.length < n + 6)
    (hok : NotYetRefused n bytes) {rest : List RxAnswer} (hrx : s.rxAnswers = deliver bytes ++ rest) :
    ∃ len rxchk payload, Holds n bytes len rxchk payload ∧
      runSteps bytes.length s = .next (received n bytes rest len rxchk payload s) := by
  induction bytes using List.reverseRecOn generalizing rest with
  | nil =>
    have hrest : rest = s.rxAnswers := hrx.symm
    exact ⟨_, _, _, holds_nil _ _ _ _, by rw [hrest, h.received_nil]; rfl⟩
  | append_singleton bytes b ih =>
    rw [List.length_append, List.length_singleton] at hlt ⊢
    obtain ⟨len, rxchk, payload, hheld, hrun⟩ :=
      ih (rest := .byte b :: rest) (by omega) hok.of_append (by simp [hrx, deliver])
    obtain ⟨field, hfield, hstep⟩ := h.step_received (by omega) hheld (.byte b :: rest)
    obtain ⟨len', rxchk', payload', hheld', hread⟩ :=
      decodeField_received (rest := rest) (s := s) hheld hok h.bound (by omega) hfield rfl after
    refine ⟨len', rxchk', payload', hheld', ?_⟩
    rw [runSteps_add 1 hrun, runSteps_succ 0 (hstep.trans ((rxRead_byte _ rfl).trans hread)), runSteps_zero]

/-- The second checksum byte ends DEC: the frame is accepted, or BadChecksum is raised (R123). -/
theorem Receiving.step_lastRead (h : Receiving op s n after) {bytes : List Byte} (hlength : bytes.length = n + 5)
    {len rxchk : Half} {payload : Vector Byte Config.maxPayload} (hheld : Holds n bytes len rxchk payload)
    {x : Byte} (hx : bytes[n + 4]? = some x) (b : Byte) (rest : List RxAnswer) :
    step (received n bytes (.byte b :: rest) len rxchk payload s) =
      .next (if be16 x b = sumBytes (bytes.take (n + 4)) then
          after { received n (bytes ++ [b]) rest len (be16 x b) payload s with plen := BitVec.ofNat 8 n }
        else raise .badChecksum (received n (bytes ++ [b]) rest len (be16 x b) payload s)) := by
  obtain ⟨field, hfield, hstep⟩ := h.step_received (by omega) hheld (.byte b :: rest)
  cases (fieldAt_eq_chkLo_iff hfield).2 hlength
  have hlo : setLo rxchk b = be16 x b := by rw [setLo, hheld.rxchkHi x hx, be16]
  rw [hstep, rxRead_byte _ rfl, ← unsummed_received (u := _) (by omega) rfl, ← hlo, apply_ite Host.Outcome.next]
  rfl

/-- The summed part of a frame with the first checksum byte is refused by no check (R122, R124). -/
theorem notYetRefused_frameHead {p : List Byte} (hp : p.length ≤ Config.maxPayload) (more : List Byte) :
    NotYetRefused p.length (frameHead p ++ more) := by
  have hp' : p.length ≤ 26 := hp
  refine ⟨?_, ?_, ?_⟩
  · rintro b ⟨⟩
    rfl
  · rintro b ⟨⟩
    rfl
  · rintro x y ⟨⟩ ⟨⟩
    have field := be16_hiByte_loByte (BitVec.ofNat 16 (p.length + 2))
    rw [be16] at field
    rw [field, BitVec.toNat_ofNat]
    omega

/-- A run of the reads of a frame that DEC accepts (R120, R123). -/
theorem Receiving.runSteps_acceptedFrame (h : Receiving op s n after) {p : List Byte} (hp : p.length = n)
    {rest : List RxAnswer} (hrx : s.rxAnswers = deliver (receivedFrame p) ++ rest) :
    ∃ len rxchk payload, (∀ j, j < n → payload[j]? = p[j]?) ∧
      runSteps (n + 6) s =
        .next (after { received n (receivedFrame p) rest len rxchk payload s with plen := BitVec.ofNat 8 n }) := by
  subst hp
  generalize hx : hiByte (sumBytes (frameHead p)) = x
  generalize hy : loByte (sumBytes (frameHead p)) = y
  have hsum : be16 x y = sumBytes (frameHead p) := by rw [← hx, ← hy, be16_hiByte_loByte]
  have hhead : (frameHead p).length = p.length + 4 := by simp [frameHead]
  have hframe : receivedFrame p = frameHead p ++ [x] ++ [y] := by simp [receivedFrame, bytesOf, hx, hy]
  have hlength : (frameHead p ++ [x]).length = p.length + 5 := by simp [hhead]
  obtain ⟨len, rxchk, payload, hheld, hrun⟩ := h.runSteps_reads (bytes := frameHead p ++ [x]) (rest := .byte y :: rest)
    (by omega) (notYetRefused_frameHead h.bound [x]) (by simp [hrx, hframe, deliver])
  refine ⟨len, be16 x y, payload, fun j hj => ?_, ?_⟩
  · rw [hheld.payload j hj (by omega), List.getElem?_append_left (by omega)]
    rfl
  · have hlast : (frameHead p ++ [x])[p.length + 4]? = some x := by rw [← hhead, List.getElem?_concat_length]
    have htake : (frameHead p ++ [x]).take (p.length + 4) = frameHead p := by rw [← hhead, List.take_left]
    rw [hlength] at hrun
    rw [runSteps_add 1 hrun, runSteps_succ 0 (h.step_lastRead hlength hheld hlast y rest), htake, if_pos hsum,
      runSteps_zero, hframe]

end

end Sys2Proof.Machine

/-! ## Whole transfers from the acceptance on (spec/40_frame_encoder.md R100; spec/43_operations.md R171, R172) -/

namespace Sys2Proof.Machine

/-- Acceptance of an operation that sends a frame starts ENC. -/
theorem acceptPart_sending {i : Instr} {op : Operation} {s t : State} {c : Byte} {d : Half} {after : State → State}
    (hi : acceptedOperation i = some op) (hframe : framePart i = some (c, d, after)) (h : acceptPart i s = some t)
    (hfree : s.pending = none) (hline : s.resetLine = []) : Sending op t c d after := by
  cases i <;> cases hframe <;> cases hi <;> cases h <;>
    exact ⟨⟨rfl, hfree, hline, rfl⟩, rfl, beginEnc_inEnc _ _ _ _, rfl⟩

/-- Acceptance and seven accepted writes. -/
theorem Offered.runSteps_frame {s t : State} {r : Request} {later : List Request} {i : Instr} {op : Operation} {c : Byte}
    {d : Half} {after : State → State} {rest : List TxAnswer} (h : Offered s r later) (hd : decodeRequest r = .ok i)
    (hi : acceptedOperation i = some op) (hframe : framePart i = some (c, d, after))
    (ht : acceptPart i { s with requests := later } = some t) (htx : s.txAnswers = List.replicate 7 .ok ++ rest) :
    runSteps 8 s = .next (after (written c d 7 rest t)) := by
  have sending := acceptPart_sending hi hframe ht h.free h.noReset
  have accepted : step s = .next t := (h.step_ok hd).trans (exec_of_acceptPart h.idle ht)
  rw [runSteps_succ 7 accepted]
  exact sending.runSteps_frame ((acceptPart_sameTransport ht).txAnswers.trans htx)

/-- ENCODE ends once its frame is sent (R100). -/
theorem step_of_encode_sent {s : State} (h : Running .encode s) (henc : s.step = .enc) (hidx : s.idx.toNat = 7) :
    step s = .next (complete .empty s) := by
  rw [step_of_operation h.busy h.free (not_resetDue_of_nil h.noReset) (eq_sampled_of_nil h.noReset)
    (ofCode_eq_some h.operation) (.inl (by decide)), operationInstr, exec_encode_busy h.busy, if_pos ⟨henc, hidx⟩]

/-- ENCODE with every write accepted: acceptance, seven writes, completion (R100). -/
theorem Offered.runSteps_encode {s : State} {r : Request} {later : List Request} {c : Byte} {d : Half}
    {rest : List TxAnswer} (h : Offered s r later) (hd : decodeRequest r = .ok (.encode c d))
    (htx : s.txAnswers = List.replicate 7 .ok ++ rest) :
    runSteps 9 s =
      .next (complete .empty (written c d 7 rest (beginEnc c d (accept .encode { s with requests := later })))) := by
  have sent := h.runSteps_frame (op := .encode) hd rfl rfl rfl htx
  have running : Running .encode (written c d 7 rest (beginEnc c d (accept .encode { s with requests := later }))) :=
    ⟨rfl, h.free, h.noReset, rfl⟩
  rw [runSteps_add 1 sent]
  exact runSteps_succ 0 (step_of_encode_sent running rfl rfl)

/-- In EXT of GET_PASSIVE and GET_ACTIVE the operation ends with the measurement in PAYLOAD (R150). -/
theorem step_of_ext {op : Operation} {s : State} (h : Running op s) (hop : op = .getPassive ∨ op = .getActive)
    (hext : s.step = .ext) : step s = .next (extractAndComplete s.payload (by decide) s) := by
  have runs := step_of_operation h.busy h.free (not_resetDue_of_nil h.noReset) (eq_sampled_of_nil h.noReset)
    (ofCode_eq_some h.operation) (.inr (.inl (by rw [hext]; decide)))
  rcases hop with rfl | rfl
  · simp only [runs, operationInstr, exec_getPassive_busy h.busy, hext]
  · simp only [runs, operationInstr, exec_getActive_busy h.busy, hext]

/-- GET_PASSIVE and GET_ACTIVE from the start of DEC on, with a measurement frame that DEC accepts (R171, R172). -/
theorem Receiving.runSteps_measurement {op : Operation} {s : State} (h : Receiving op s 26 beginExt)
    (hop : op = .getPassive ∨ op = .getActive) {p : Operand} {rest : List RxAnswer}
    (hrx : s.rxAnswers = deliver (receivedFrame p.toList) ++ rest) :
    ∃ len rxchk, runSteps 33 s = .next (extractAndComplete p (by decide)
      (beginExt { received 26 (receivedFrame p.toList) rest len rxchk p s with plen := 26 })) := by
  obtain ⟨len, rxchk, payload, hpayload, hrun⟩ := h.runSteps_acceptedFrame Vector.length_toList hrx
  have hp : payload = p := Vector.ext fun j hj => by simpa [hj] using hpayload j hj
  subst hp
  refine ⟨len, rxchk, ?_⟩
  rw [runSteps_add 1 hrun]
  exact runSteps_succ 0 (step_of_ext ⟨h.busy, h.free, h.noReset, h.operation⟩ hop rfl)

end Sys2Proof.Machine

/-! ## GET_PASSIVE and GET_ACTIVE (spec/30_encoding.md R89; spec/43_operations.md R171, R172)

Past its frame GET_PASSIVE is GET_ACTIVE under another OP (`exec_getPassive_eq_getActive`), and OP shows nowhere
(`exec_relabel`). So the run of GET_PASSIVE goes along with the run from the same state as GET_ACTIVE, and that state and
the one in which a GET_ACTIVE after SEND_READ has just started are twins. -/

namespace Sys2Proof.Machine

/-- The two differ in ENC alone, which GET_ACTIVE does not have. -/
theorem exec_getPassive_eq_getActive {s : State} (hp : s.phase = .busy) (hsent : s.step ≠ .enc) :
    exec .getPassive s = exec .getActive s := by
  rw [exec_getPassive_busy hp, exec_getActive_busy hp]
  cases hstep : s.step with
  | enc => exact absurd hstep hsent
  | dec => rfl
  | ver => rfl
  | ext => rfl

/-- The state with GET_ACTIVE as the operation in progress. -/
def asGetActive : State → State := relabel id fun _ => Operation.getActive.code

/-- GET_PASSIVE is in progress and its frame is sent; no reset comes. -/
structure PastFrame (s : State) : Prop where
  busy : s.phase = .busy
  operation : s.op = Operation.getPassive.code
  sent : s.step ≠ .enc
  noReset : s.resetLine = []
  sequenced : Sequenced s

/-- Past its frame a step of GET_PASSIVE is that of GET_ACTIVE. -/
theorem PastFrame.step_asGetActive {s : State} (h : PastFrame s) :
    step (asGetActive s) = mapNext asGetActive (step s) := by
  have hr := not_resetDue_of_nil h.noReset
  have sampled := eq_sampled_of_nil h.noReset
  have sampled' : asGetActive s = { asGetActive s with resetLine := (asGetActive s).resetLine.tail } :=
    eq_sampled_of_nil h.noReset
  by_cases hfree : s.pending = none
  · have passive : step s = exec .getPassive s :=
      step_of_operation (op := .getPassive) h.busy hfree hr sampled h.operation (.inr (.inl h.sent))
    have active : step (asGetActive s) = exec .getActive (asGetActive s) :=
      step_of_operation (op := .getActive) h.busy hfree hr sampled' rfl (.inl (by decide))
    rw [passive, active, exec_getPassive_eq_getActive h.busy h.sent]
    exact exec_relabel h.busy .getActive
  · rw [step_of_outstanding h.busy hr sampled hfree,
      step_of_outstanding (s := asGetActive s) h.busy hr sampled' hfree]
    rfl

/-- A step past the frame stays past it, or ends the operation. -/
theorem PastFrame.step_next {s : State} (h : PastFrame s) :
    ∃ t, step s = .next t ∧ t.op = Operation.getPassive.code ∧ (t.phase = .busy → PastFrame t) := by
  have hr := not_resetDue_of_nil h.noReset
  have sampled := eq_sampled_of_nil h.noReset
  by_cases hfree : s.pending = none
  · obtain ⟨op, t, hop, ht, hmade⟩ := step_operationStep h.busy hfree hr sampled h.sequenced
    have hop' : op = .getPassive := code_injective ((ofCode_eq_some hop).symm.trans h.operation)
    subst hop'
    obtain ⟨hopreg, _, order, _⟩ := hmade.follows h.busy
    refine ⟨t, ht, hopreg.trans h.operation, fun hbusy => ?_⟩
    obtain ⟨_, _, sequenced⟩ := hmade.keepsOperation hop hbusy
    have later : ∀ a b : SubOp, a ≠ .enc → (b = a ∨ [a, b] <:+: [.enc, .dec, .ext]) → b ≠ .enc := by
      intro a b
      cases a <;> cases b <;> decide
    exact ⟨hbusy, hopreg.trans h.operation, later _ _ h.sent order, hmade.resetLine.trans h.noReset, sequenced⟩
  · exact ⟨s, step_of_outstanding h.busy hr sampled hfree, h.operation, fun _ => h⟩

/-- Two states show the same: the same calls and responses up to now, the same input left, and in IDLE the same to
read. -/
structure SameView (t u : State) : Prop where
  phase : t.phase = u.phase
  input : SameInput t u
  trace : t.trace = u.trace
  responses : t.responses = u.responses
  ends : t.phase = .idle → SameEnd t u

/-- Neither GET_PASSIVE nor GET_ACTIVE has a payload for its result, so that OP does not show (R38). -/
theorem sameEnd_asGetActive {t : State} (hop : t.op = Operation.getPassive.code) : SameEnd t (asGetActive t) := by
  have passive : t.op ≠ Operation.decode.code := by rw [hop]; decide
  have active : Operation.getActive.code ≠ Operation.decode.code := by decide
  refine ⟨rfl, rfl, ?_⟩
  rw [State.visibleResult, State.visibleResult, if_neg passive, if_neg (show (asGetActive t).op ≠ Operation.decode.code from active)]
  rfl

/-- The run of GET_PASSIVE from the end of its frame on goes along with that of GET_ACTIVE from the same state. -/
theorem PastFrame.runSteps_sameView (k : Nat) {s : State} (h : PastFrame s) :
    Agree SameView (runSteps k s) (runSteps k (asGetActive s)) := by
  induction k generalizing s with
  | zero => exact ⟨rfl, ⟨rfl, rfl, rfl, rfl, rfl⟩, rfl, rfl, fun hidle => by rw [h.busy] at hidle; cases hidle⟩
  | succ k ih =>
    obtain ⟨t, ht, hop, hnext⟩ := h.step_next
    have ht' : step (asGetActive s) = .next (asGetActive t) := by rw [h.step_asGetActive, ht]; rfl
    rw [runSteps_succ k ht, runSteps_succ k ht']
    rcases hp : t.phase
    · have twins : Twins t (asGetActive t) :=
        ⟨sameConduct_refl rfl ⟨rfl, rfl, rfl, rfl, rfl⟩, fun hbusy => by rw [hp] at hbusy; cases hbusy⟩
      refine (runSteps_alike k twins (.inl rfl)).imp fun u v ⟨conduct, ends⟩ => ?_
      obtain ⟨calls, hu, hv⟩ := conduct.calls
      obtain ⟨given, hgu, hgv⟩ := conduct.responses
      exact ⟨conduct.phase, conduct.input, hu.trans hv.symm, hgu.trans hgv.symm,
        fun _ => ends (.inl (sameEnd_asGetActive hop))⟩
    · exact ih (hnext hp)

theorem Agree.trans {R Q : State → State → Prop} {o p q : Result3} (h₁ : Agree R o p) (h₂ : Agree Q p q) :
    Agree (fun t u => ∃ v, R t v ∧ Q v u) o q := by
  cases o <;> cases p <;> cases q <;> simp only [Agree] at h₁ h₂ ⊢
  · exact ⟨_, h₁, h₂⟩
  · exact h₁.trans h₂
  · exact h₁.trans h₂

theorem SameEnd.trans {t u v : State} (h₁ : SameEnd t u) (h₂ : SameEnd u v) : SameEnd t v :=
  ⟨h₁.status.trans h₂.status, h₁.resultValid.trans h₂.resultValid, h₁.result.trans h₂.result⟩

theorem SameInput.trans {t u v : State} (h₁ : SameInput t u) (h₂ : SameInput u v) : SameInput t v :=
  ⟨h₁.requests.trans h₂.requests, h₁.txAnswers.trans h₂.txAnswers, h₁.rxAnswers.trans h₂.rxAnswers,
    h₁.pending.trans h₂.pending, h₁.resetLine.trans h₂.resetLine⟩

/-! The two request sequences of R89. -/

/-- After GET_PASSIVE with its seven writes accepted: DEC(26) has started. -/
def passiveFrameSent (txRest : List TxAnswer) (later : List Request) (s : State) : State :=
  afterGetPassiveFrame (written 0xE2 0 7 txRest (acceptGetPassive { s with requests := later }))

/-- After SEND_READ with its seven writes accepted: the ENCODE is complete. -/
def sendReadDone (txRest : List TxAnswer) (queue : List Request) (s : State) : State :=
  complete .empty (written 0xE2 0 7 txRest (beginEnc 0xE2 0 (accept .encode { s with requests := queue })))

/-- After the acceptance of GET_ACTIVE: DEC(26) has started. -/
def activeStarted (later : List Request) (s : State) : State :=
  beginDec 26 (accept .getActive { s with requests := later })

section
variable {s : State} {later : List Request} {txRest : List TxAnswer}

theorem runSteps_getPassive_frame (hp : s.phase = .idle) (hline : s.resetLine = []) (hfree : s.pending = none)
    (htx : s.txAnswers = List.replicate 7 .ok ++ txRest) :
    runSteps 8 { s with requests := { word := 0x50000000 } :: later } = .next (passiveFrameSent txRest later s) := by
  have offered : Offered { s with requests := { word := 0x50000000 } :: later } { word := 0x50000000 } later :=
    ⟨hp, hline, hfree, rfl⟩
  exact offered.runSteps_frame (i := .getPassive) (decodeRequest_of_encode rfl rfl) rfl rfl rfl htx

theorem runSteps_sendRead_getActive (hp : s.phase = .idle) (hline : s.resetLine = []) (hfree : s.pending = none)
    (htx : s.txAnswers = List.replicate 7 .ok ++ txRest) :
    runSteps 10 { s with requests := { word := 0x10E20000 } :: { word := 0x60000000 } :: later } =
      .next (activeStarted later (sendReadDone txRest ({ word := 0x60000000 } :: later) s)) := by
  have offeredSend : Offered { s with requests := { word := 0x10E20000 } :: { word := 0x60000000 } :: later }
      { word := 0x10E20000 } ({ word := 0x60000000 } :: later) := ⟨hp, hline, hfree, rfl⟩
  have offeredGet : Offered (sendReadDone txRest ({ word := 0x60000000 } :: later) s) { word := 0x60000000 } later :=
    ⟨rfl, hline, hfree, rfl⟩
  have sent := offeredSend.runSteps_encode (decodeRequest_of_encode (i := Pseudo.sendRead.expand) rfl rfl) htx
  have accepted := (offeredGet.step_ok (decodeRequest_of_encode (i := .getActive) rfl rfl)).trans
    (exec_of_acceptPart rfl rfl)
  rw [runSteps_add 1 sent]
  exact runSteps_succ 0 accepted

theorem pastFrame_passiveFrameSent (hline : s.resetLine = []) : PastFrame (passiveFrameSent txRest later s) :=
  ⟨rfl, rfl, nofun, hline,
    sequenced_of_inDec (op := .getPassive) rfl rfl (beginDec_inDec (n := 26) (by decide) _ _)⟩

/-- GET_PASSIVE past its frame, as GET_ACTIVE, and GET_ACTIVE after SEND_READ stand at the same point. -/
theorem twins_asGetActive (txRest : List TxAnswer) (later queue : List Request) (s : State) :
    Twins (asGetActive (passiveFrameSent txRest later s)) (activeStarted later (sendReadDone txRest queue s)) :=
  ⟨sameConduct_refl rfl ⟨rfl, rfl, rfl, rfl, rfl⟩, fun _ => ⟨.getActive, rfl, rfl, rfl,
    fun _ => sameProgress_beginDec 26 (asGetActive (written 0xE2 0 7 txRest (acceptGetPassive { s with requests := later })))
      (accept .getActive { sendReadDone txRest queue s with requests := later }),
    sequenced_of_inDec (op := .getActive) rfl rfl (beginDec_inDec (n := 26) (by decide) _ _),
    sequenced_of_inDec (op := .getActive) rfl rfl (beginDec_inDec (n := 26) (by decide) _ _), rfl, rfl⟩⟩

/-- What R89 compares, in two states: they show the same, but that the second sequence has one empty response more. -/
def SameButEmptyResponse (s t u : State) : Prop :=
  t.phase = u.phase ∧ SameInput t u ∧ t.trace = u.trace ∧
    (∃ given, t.responses = s.responses ++ given ∧
      u.responses = s.responses ++ { status := 0, result := .empty } :: given) ∧
    (t.phase = .idle → SameEnd t u)

/-- Both sequences from the start of DEC(26) on. -/
theorem runSteps_sameButEmptyResponse (hline : s.resetLine = []) (queue : List Request) (k : Nat) :
    Agree (SameButEmptyResponse s) (runSteps k (passiveFrameSent txRest later s))
      (runSteps k (activeStarted later (sendReadDone txRest queue s))) := by
  have view := (pastFrame_passiveFrameSent (txRest := txRest) (later := later) hline).runSteps_sameView k
  have alike := runSteps_alike k (twins_asGetActive txRest later queue s) (.inl rfl)
  refine (view.trans alike).imp ?_
  rintro t u ⟨v, view, conduct, ends⟩
  obtain ⟨calls, hv, hu⟩ := conduct.calls
  obtain ⟨given, hgv, hgu⟩ := conduct.responses
  refine ⟨view.phase.trans conduct.phase, view.input.trans conduct.input, ?_, ⟨given, view.responses.trans hgv, ?_⟩,
    fun hidle => (view.ends hidle).trans (ends (.inr ⟨view.phase.symm.trans hidle, 0, _, Nat.zero_le k, rfl, rfl⟩))⟩
  · rw [view.trace, hv, hu]
    rfl
  · rw [hgu]
    exact List.append_assoc _ _ _

/-- GET_PASSIVE ends with a measurement where a measurement frame comes (R171). -/
theorem runSteps_passiveFrameSent (hline : s.resetLine = []) (hfree : s.pending = none) {p : Operand}
    {rxRest : List RxAnswer} (hrx : s.rxAnswers = deliver (receivedFrame p.toList) ++ rxRest) :
    ∃ t m, runSteps 33 (passiveFrameSent txRest later s) = .next t ∧
      t.responses = s.responses ++ [{ status := 0, result := .measurement m }] := by
  have receiving : Receiving .getPassive (passiveFrameSent txRest later s) 26 beginExt :=
    ⟨⟨rfl, hfree, hline, rfl⟩, rfl, rfl, rfl, by decide, rfl, rfl⟩
  obtain ⟨len, rxchk, hrun⟩ := receiving.runSteps_measurement (.inl rfl) hrx
  exact ⟨_, _, hrun, rfl⟩

end

/-- Settles O48: both sequences are at the start of DEC(26) after 8 and 10 steps, and go on alike; after 33 more the
measurement is there. -/
theorem getPassiveEqualsSendReadThenGetActive : Obligations.GetPassiveEqualsSendReadThenGetActive := by
  rintro s _ _ later txRest hp hline hfree htx rfl rfl
  have passive := runSteps_getPassive_frame (later := later) hp hline hfree htx
  have active := runSteps_sendRead_getActive (later := later) hp hline hfree htx
  have alike (k : Nat) := runSteps_sameButEmptyResponse (txRest := txRest) (later := later) hline
    ({ word := 0x60000000 } :: later) k
  refine ⟨fun k => ?_, fun p rxRest hrx => ?_⟩
  · rw [runSteps_add k passive, runSteps_add k active]
    exact alike k
  · obtain ⟨t, m, ht, hresponses⟩ := runSteps_passiveFrameSent (txRest := txRest) (later := later) hline hfree hrx
    have ended := alike 33
    rw [ht] at ended
    rcases hu : runSteps 33 (activeStarted later (sendReadDone txRest ({ word := 0x60000000 } :: later) s)) with u | f | r <;>
      rw [hu] at ended
    · obtain ⟨_, input, trace, ⟨given, hgt, hgu⟩, _⟩ := ended
      have hgiven := List.append_cancel_left (hgt.symm.trans hresponses)
      exact ⟨t, u, m, (runSteps_add 33 passive).trans ht, (runSteps_add 33 active).trans hu, trace, input.txAnswers,
        input.rxAnswers, input.requests, hresponses, by rw [hgu, hgiven]⟩
    · cases ended
    · cases ended

end Sys2Proof.Machine

/-! ## ENCODE, and a command frame whose writes are not all accepted (spec/40_frame_encoder.md R100 to R107;
spec/60_exceptions.md R209)

`Offered.startsSending` is the acceptance of any operation that sends a frame. From there `runSteps_failedWrite` and
`runSteps_unansweredWrite` give the run up to the first write that is not accepted. -/

namespace Sys2Proof

/-- No carry leaves the 16 bits of a command frame's checksum (R102, R107). -/
theorem toNat_chkCmd (c : Byte) (d : Half) :
    (chkCmd c d).toNat = 0x42 + 0x4D + c.toNat + (hiByte d).toNat + (loByte d).toNat := by
  have hc := c.isLt
  have hhi := (hiByte d).isLt
  have hlo := (loByte d).isLt
  simp only [chkCmd, BitVec.toNat_add, BitVec.toNat_setWidth, Config.startByte1, Config.startByte2,
    BitVec.ofNat_eq_ofNat, BitVec.toNat_ofNat]
  omega

/-- Settles O19: `toNat_chkCmd`, with each of its three free bytes at most 255. -/
theorem commandFrameChecksum : Obligations.CommandFrameChecksum := by
  intro c d
  have checksum : (hiByte (chkCmd c d) ++ loByte (chkCmd c d) : Half) = chkCmd c d := be16_hiByte_loByte _
  have value := toNat_chkCmd c d
  have high := toNat_hiByte (chkCmd c d)
  have hc := c.isLt
  have hhi := (hiByte d).isLt
  have hlo := (loByte d).isLt
  refine ⟨hiByte (chkCmd c d), loByte (chkCmd c d), rfl, ?_⟩
  rw [checksum]
  change _ = (0x42 + 0x4D + c.toNat + (hiByte d).toNat + (loByte d).toNat) % 65536 ∧ _
  omega

end Sys2Proof

namespace Sys2Proof.Machine

/-- Settles O18: the finished branch of `exec_encode_busy`. -/
theorem encodeCompletes : Obligations.EncodeCompletes := by
  intro s c d hp henc hidx
  rw [exec_encode_busy hp, if_pos ⟨henc, by rw [hidx]; rfl⟩]
  rfl

/-- Settles O14: the write of `exec_of_framePart`, accepted or failed; ENCODE has nothing to start after its frame. -/
theorem encoderStepTable : Obligations.EncoderStepTable := by
  rintro s c d _ b rest hp henc rfl hb hsum
  replace hb : (commandFrame c d)[s.idx.toNat]? = some b := hb
  obtain ⟨hidx, _⟩ := List.getElem?_eq_some_iff.1 hb
  rw [exec_of_framePart (after := id) hp rfl henc hidx]
  refine ⟨fun htx => ?_, fun htx => ?_⟩
  · rw [encStep_of_ok hb hsum htx rfl, id_eq, ite_self]
  · rw [encStep_of_fail hb hsum htx]
    rfl

/-- SUM after the whole frame is the frame's checksum (R102). -/
theorem coveredSum_seven (c : Byte) (d : Half) : coveredSum c d 7 = chkCmd c d := by
  simp [coveredSum, commandFrame, sumBytes, addByte, chkCmd]

/-- Settles O20: the run `Offered.runSteps_encode`, read off its final state. -/
theorem encodeRunsToCompletion : Obligations.EncodeRunsToCompletion := by
  intro s r later c d rest hoffered hd htx
  exact ⟨_, hoffered.runSteps_encode hd htx, rfl, rfl, rfl, rfl, rfl, rfl, rfl, rfl, hoffered.free, rfl,
    coveredSum_seven c d⟩

/-! A write that is not accepted. -/

/-- A write of ENC that never returns (R209). -/
theorem encStep_of_never {c b : Byte} {d : Half} {after : State → State} {s : State} {rest : List TxAnswer}
    (hb : (commandFrame c d)[s.idx.toNat]? = some b) (hsum : s.sum = coveredSum c d s.idx.toNat)
    (htx : s.txAnswers = .never :: rest) :
    encStep c d after s = { s with txAnswers := rest, pending := some (.write b) } := by
  rw [encStep_eq_txWrite, txWrite_never _ _ htx, hsum, encoderByte_coveredSum hb, ← hsum]

theorem toNat_written_idx (c : Byte) (d : Half) {k : Nat} (hk : k < 7) (rest : List TxAnswer) (s : State) :
    (written c d k rest s).idx.toNat = k := by
  simp only [written, BitVec.toNat_ofNat]
  omega

/-- The block makes no step while a call is outstanding, however long (R34, R209). -/
theorem runSteps_of_outstanding (k : Nat) {s : State} (hp : s.phase = .busy) (hpend : s.pending ≠ none)
    (hline : s.resetLine = []) : runSteps k s = .next s := by
  induction k with
  | zero => rfl
  | succ k ih =>
    have stays := step_of_outstanding hp (not_resetDue_of_nil hline) (eq_sampled_of_nil hline) hpend
    rw [runSteps_succ k stays, ih]

section
variable {op : Operation} {s : State} {c b : Byte} {d : Half} {after : State → State} {k : Nat} {rest : List TxAnswer}

/-- `k` accepted writes and then the write at index `k`, whatever its answer. -/
theorem Sending.runSteps_nextWrite (h : Sending op s c d after) (hk : k < 7)
    (htx : s.txAnswers = List.replicate k .ok ++ rest) :
    runSteps (k + 1) s = .next (encStep c d after (written c d k rest s)) := by
  rw [runSteps_add 1 (h.runSteps_writes (by omega) htx), runSteps_succ 0 (h.step_written hk rest), runSteps_zero]

/-- `k` accepted writes and then a failed one end the operation (R103). -/
theorem Sending.runSteps_failedWrite (h : Sending op s c d after) (hb : (commandFrame c d)[k]? = some b)
    (htx : s.txAnswers = List.replicate k .ok ++ .fail :: rest) :
    runSteps (k + 1) s = .next (raise .writeFailure { written c d k rest s with
      trace := s.trace ++ writesOk ((commandFrame c d).take k) ++ [.write b .fail] }) := by
  obtain ⟨hk : k < 7, _⟩ := List.getElem?_eq_some_iff.1 hb
  have hidx := toNat_written_idx c d hk (.fail :: rest) s
  rw [h.runSteps_nextWrite hk htx, encStep_of_fail (by rw [hidx, hb]) (by rw [hidx]; rfl) rfl]
  rfl

/-- `k` accepted writes and then one that never returns leave that write outstanding, for any number of steps (R209). -/
theorem Sending.runSteps_unansweredWrite (h : Sending op s c d after) (hb : (commandFrame c d)[k]? = some b)
    (htx : s.txAnswers = List.replicate k .ok ++ .never :: rest) (more : Nat) :
    runSteps (k + 1 + more) s = .next { written c d k rest s with pending := some (.write b) } := by
  obtain ⟨hk : k < 7, _⟩ := List.getElem?_eq_some_iff.1 hb
  have hidx := toNat_written_idx c d hk (.never :: rest) s
  have stuck : runSteps (k + 1) s = .next { written c d k rest s with pending := some (.write b) } := by
    rw [h.runSteps_nextWrite hk htx, encStep_of_never (by rw [hidx, hb]) (by rw [hidx]; rfl) rfl]
    rfl
  rw [runSteps_add more stuck]
  exact runSteps_of_outstanding more h.busy nofun h.noReset

end

/-- A request that sends a command frame is accepted, and its frame is the one it names (R100, R170, R171, R173). -/
theorem sentCommand_parts {i : Instr} {c : Byte} {d : Half} (h : sentCommand i = some (c, d)) (s : State) :
    ∃ after t, framePart i = some (c, d, after) ∧ acceptPart i s = some t := by
  cases i <;> cases h <;> exact ⟨_, _, rfl, rfl⟩

/-- The acceptance of an operation that sends a command frame: ENC has started, nothing was called or answered. -/
theorem Offered.startsSending {s : State} {r : Request} {later : List Request} {i : Instr} {c : Byte} {d : Half}
    (h : Offered s r later) (hd : decodeRequest r = .ok i) (hsent : sentCommand i = some (c, d)) :
    ∃ op after t, step s = .next t ∧ Sending op t c d after ∧ Accepts op { s with requests := later } t ∧
      SameTransport { s with requests := later } t := by
  obtain ⟨after, t, hframe, ht⟩ := sentCommand_parts hsent { s with requests := later }
  obtain ⟨op, hi, accepts⟩ := acceptPart_accepts ht
  exact ⟨op, after, t, (h.step_ok hd).trans (exec_of_acceptPart h.idle ht),
    acceptPart_sending hi hframe ht h.free h.noReset, accepts, acceptPart_sameTransport ht⟩

/-- Settles O21: the acceptance, and `Sending.runSteps_failedWrite` from there. -/
theorem failedWriteEndsTheOperation : Obligations.FailedWriteEndsTheOperation := by
  intro s r later i c d k b rest hoffered hd hsent hb htx
  obtain ⟨op, after, t, accepted, sending, accepts, same⟩ := hoffered.startsSending hd hsent
  have failed := sending.runSteps_failedWrite hb (same.txAnswers.trans htx)
  refine ⟨_, (runSteps_succ (k + 1) accepted).trans failed, rfl, rfl, rfl, accepts.requests, ?_, ?_, rfl,
    same.rxAnswers⟩
  · exact congrArg (· ++ _) accepts.responses
  · exact congrArg (· ++ _ ++ _) same.trace

/-- Settles O22: the acceptance, and `Sending.runSteps_unansweredWrite` from there. -/
theorem unansweredWriteBlocksTheOperation : Obligations.UnansweredWriteBlocksTheOperation := by
  intro s r later i c d k b rest more hoffered hd hsent hb htx
  obtain ⟨op, after, t, accepted, sending, accepts, same⟩ := hoffered.startsSending hd hsent
  have blocked := sending.runSteps_unansweredWrite hb (same.txAnswers.trans htx) more
  rw [show k + 2 + more = k + 1 + more + 1 by omega, runSteps_succ _ accepted]
  refine ⟨_, blocked, accepts.phase, accepts.status, accepts.responses, rfl, ?_⟩
  exact congrArg (· ++ _ ++ _) same.trace

end Sys2Proof.Machine

/-! ## DECODE (spec/41_frame_decoder.md R120 to R132)

The rows of the step table first. Then whole runs: `Offered.startsReceiving` is the acceptance of DECODE, and from there
a run ends with the payload (`Receiving.runSteps_payload`) or with an error, which is a `DecodeFailed`: a check refuses
the frame (`RefusedAs`, `Offered.runSteps_refused`), or a read fails (`Offered.runSteps_failedRead`). -/

namespace Sys2Proof.Machine

/-! The rows of the step table. -/

/-- Settles O27: the finished branch of `exec_decode_busy`. -/
theorem decodeCompletes : Obligations.DecodeCompletes := by
  intro s n hp hdec _ hidx
  rw [exec_decode_busy hp, if_pos hdec, if_pos hidx]
  rfl

theorem fieldAt_eq_payload {n i : Nat} (h : i < n) : fieldAt n (4 + i) = some (.payload i) := by
  simp [fieldAt, h, show 4 + i ≠ 1 by omega, show 4 + i ≠ 2 by omega, show 4 + i ≠ 3 by omega]

theorem fieldAt_eq_chkHi (n : Nat) : fieldAt n (4 + n) = some .chkHi := by
  simp [fieldAt, show 4 + n ≠ 1 by omega, show 4 + n ≠ 2 by omega, show 4 + n ≠ 3 by omega]

theorem fieldAt_eq_chkLo (n : Nat) : fieldAt n (5 + n) = some .chkLo := by
  simp [fieldAt, show 5 + n ≠ 1 by omega, show 5 + n ≠ 2 by omega, show 5 + n ≠ 3 by omega]

/-- A comparison that DEC checks (R121). -/
theorem check_beq {α : Type} [DecidableEq α] (x y : α) (kind : ErrorKind) (s : State) :
    check (x == y) kind s = if x = y then s else raise kind s := by
  simp [check]

/-- The check of LEN, as a comparison of numbers (R122). -/
theorem check_length {n : Nat} (hn : n ≤ 26) (v : Half) (kind : ErrorKind) (s : State) :
    check (v == BitVec.ofNat 16 (n + 2)) kind s = if v.toNat = n + 2 then s else raise kind s := by
  have number : v = BitVec.ofNat 16 (n + 2) ↔ v.toNat = n + 2 := by
    rw [← BitVec.toNat_inj, BitVec.toNat_ofNat, Nat.mod_eq_of_lt (by omega)]
  simp only [check_beq, number]

/-- The last row: the frame is accepted where RXCHK is SUM (R123). -/
theorem decodeField_chkLo (n b : Byte) (s : State) :
    decodeField n.toNat id .chkLo b s =
      .next (if setLo s.rxchk b = s.sum then { s with rxchk := setLo s.rxchk b, idx := s.idx + 1, plen := n }
        else raise .badChecksum { s with rxchk := setLo s.rxchk b, idx := s.idx + 1 }) := by
  rw [decodeField, BitVec.ofNat_toNat, BitVec.setWidth_eq, ← apply_ite Host.Outcome.next]
  rfl

section
variable {s : State} {n b : Byte} {rest : List RxAnswer} {field : FrameField}

/-- A byte read by DECODE goes to the field at IDX (R121). -/
theorem exec_decode_of_byte (hp : s.phase = .busy) (hdec : s.step = .dec)
    (hfield : fieldAt n.toNat s.idx.toNat = some field) (hrx : s.rxAnswers = .byte b :: rest) :
    exec (.decode n) s =
      decodeField n.toNat id field b { s with rxAnswers := rest, trace := s.trace ++ [.read (.byte b)] } := by
  rw [exec_of_receivePart hp rfl hdec (fieldAt_lt hfield), decStep_of_field hfield, rxRead_byte _ hrx]

/-- A failed read of DECODE (R120, R121). -/
theorem exec_decode_of_fail (hp : s.phase = .busy) (hdec : s.step = .dec) (hidx : s.idx.toNat < n.toNat + 6)
    (hrx : s.rxAnswers = .fail :: rest) :
    exec (.decode n) s =
      .next (raise .readFailure { s with rxAnswers := rest, trace := s.trace ++ [.read .fail] }) := by
  obtain ⟨field, hfield⟩ := Option.isSome_iff_exists.1 ((fieldAt_isSome_iff n.toNat s.idx.toNat).2 hidx)
  rw [exec_of_receivePart hp rfl hdec hidx, decStep_of_field hfield, rxRead_fail _ hrx]

end

/-- Settles O25: the read of `exec_decode_of_byte` at the field of each row, and the failed one. -/
theorem decoderStepTable : Obligations.DecoderStepTable := by
  rintro s n b rest u v hp hdec hn rfl rfl
  refine ⟨fun hrx => ?_, fun hrx hidx => exec_decode_of_fail hp hdec hidx hrx⟩
  have row {field : FrameField} {k : Nat} (hk : s.idx.toNat = k) (hfield : fieldAt n.toNat k = some field) :=
    exec_decode_of_byte (n := n) hp hdec (hk ▸ hfield) hrx
  refine ⟨fun h0 => ?start1, fun h1 => ?start2, fun h2 => row h2 rfl, fun h3 => ?lenLo, fun i hi hin h4 => ?payload,
    fun h4 => row h4 (fieldAt_eq_chkHi _), fun h5 => ?chkLo⟩
  case start1 =>
    rw [row h0 rfl, decodeField, check_beq]
    rfl
  case start2 =>
    rw [row h1 rfl, decodeField, check_beq]
    rfl
  case lenLo =>
    rintro w rfl
    rw [row h3 rfl, decodeField, check_length hn]
    rfl
  case payload =>
    rw [row h4 (fieldAt_eq_payload hin), decodeField, writePayload, dif_pos hi]
    rfl
  case chkLo =>
    rintro w rfl
    rw [row h5 (fieldAt_eq_chkLo _), decodeField_chkLo]
    rfl

/-! Frames and their sums. -/

theorem length_frameHead (p : List Byte) : (frameHead p).length = p.length + 4 := by
  simp [frameHead]

/-- The two checksum bytes of a sum spell that sum (R56). -/
theorem append_hiByte_loByte (v : Half) : (hiByte v ++ loByte v : Half) = v := be16_hiByte_loByte v

theorem sumBytes_append (xs ys : List Byte) : sumBytes (xs ++ ys) = sumBytes xs + sumBytes ys := by
  induction ys using List.reverseRecOn with
  | nil => simp [sumBytes]
  | append_singleton ys y ih =>
    rw [← List.append_assoc]
    simp only [sumBytes, List.foldl_append, List.foldl_cons, List.foldl_nil, addByte] at ih ⊢
    rw [ih, BitVec.add_assoc]

/-- A byte of a list that changes alone changes the sum: a byte is less than the modulus of SUM (R130). -/
theorem sumBytes_set_eq_iff {p : List Byte} {j : Nat} {b c : Byte} (hb : p[j]? = some b) :
    sumBytes (p.set j c) = sumBytes p ↔ c = b := by
  obtain ⟨hj, hb⟩ := List.getElem?_eq_some_iff.1 hb
  have hp : p = p.take j ++ [b] ++ p.drop (j + 1) := by
    rw [← hb, List.take_append_getElem, List.take_append_drop]
  have hset : p.set j c = p.take j ++ [c] ++ p.drop (j + 1) := by
    rw [List.set_eq_take_append_cons_drop, if_pos hj, List.append_assoc]
    rfl
  have single (x : Byte) : sumBytes [x] = x.setWidth 16 := by simp [sumBytes, addByte]
  rw [hset, congrArg sumBytes hp]
  simp only [sumBytes_append, single]
  bv_omega

/-- Frames of payloads of one length differ in the sum as their payloads do (R75). -/
theorem sumBytes_frameHead_eq_iff {p q : List Byte} (h : q.length = p.length) :
    sumBytes (frameHead q) = sumBytes (frameHead p) ↔ sumBytes q = sumBytes p := by
  rw [frameHead, frameHead, h, sumBytes_append _ q, sumBytes_append _ p]
  exact BitVec.add_right_inj _

/-! Reads that end the operation. -/

theorem runSteps_one (s : State) : runSteps 1 s = step s := by
  rcases hs : step s with t | f | r
  · rw [runSteps_succ 0 hs, runSteps_zero]
  · rw [runSteps_of_fault 0 hs]
  · rw [runSteps_of_refused 0 hs]

/-- The error that DEC(n) raises at the last of these bytes (R122 to R124). -/
inductive RefusedAs (n : Nat) : List Byte → ErrorKind → Prop where
  | start1 {b : Byte} (hb : b ≠ 0x42) : RefusedAs n [b] .invalidStartChar
  | start2 {b : Byte} (hb : b ≠ 0x4D) : RefusedAs n [0x42, b] .invalidStartChar
  | length {h l : Byte} (hlen : (h ++ l : Half).toNat ≠ n + 2) : RefusedAs n [0x42, 0x4D, h, l] .unexpectedFrameLength
  | checksum {p : List Byte} {h l : Byte} (hp : p.length = n) (hsum : (h ++ l : Half) ≠ sumBytes (frameHead p)) :
    RefusedAs n (frameHead p ++ [h, l]) .badChecksum

section
variable {op : Operation} {s : State} {n : Nat} {after : State → State} {bytes : List Byte} {rest : List RxAnswer}

/-- Reads that no check refuses and then one more, whatever its answer. -/
theorem Receiving.runSteps_nextRead (h : Receiving op s n after) (hlt : bytes.length < n + 6)
    (hok : NotYetRefused n bytes) (hrx : s.rxAnswers = deliver bytes ++ rest) :
    ∃ len rxchk payload field, Holds n bytes len rxchk payload ∧ fieldAt n bytes.length = some field ∧
      runSteps (bytes.length + 1) s =
        rxRead (decodeField n after field) (received n bytes rest len rxchk payload s) := by
  obtain ⟨len, rxchk, payload, hheld, hrun⟩ := h.runSteps_reads hlt hok hrx
  obtain ⟨field, hfield, hstep⟩ := h.step_received hlt hheld rest
  exact ⟨len, rxchk, payload, field, hheld, hfield, by rw [runSteps_add 1 hrun, runSteps_one, hstep]⟩

/-- The sum and the index move on at a summed byte, wherever the byte itself goes (R121). -/
theorem summed_received_keepsLen {b : Byte} {len rxchk : Half} {payload : Vector Byte Config.maxPayload} {u : State}
    (hlt : bytes.length < n + 4)
    (hu : u = { received n bytes (.byte b :: rest) len rxchk payload s with
      rxAnswers := rest
      trace := (received n bytes (.byte b :: rest) len rxchk payload s).trace ++ [.read (.byte b)] }) :
    summed b u = received n (bytes ++ [b]) rest u.len rxchk payload s := by
  have hlen : u.len = len := by rw [hu]; rfl
  have hpayload : u.payload = payload := by rw [hu]; rfl
  rw [← summed_received hlt hu u.len payload, ← hpayload]
  rfl

/-- The next byte, where it is a summed one and no check has refused those before it (R121). -/
theorem Receiving.runSteps_nextByte (h : Receiving op s n after) (hlt : bytes.length < n + 4)
    (hok : NotYetRefused n bytes) {b : Byte} (hrx : s.rxAnswers = deliver (bytes ++ [b]) ++ rest) {field : FrameField}
    (hfield : fieldAt n bytes.length = some field) :
    ∃ u rxchk payload, (∀ x, bytes[2]? = some x → hiByte u.len = x) ∧
      summed b u = received n (bytes ++ [b]) rest u.len rxchk payload s ∧
      runSteps (bytes.length + 1) s = decodeField n after field b u := by
  obtain ⟨len, rxchk, payload, field', hheld, hfield', hrun⟩ :=
    h.runSteps_nextRead (rest := .byte b :: rest) (by omega) hok (by simp [hrx, deliver])
  obtain rfl := Option.some.inj (hfield.symm.trans hfield')
  rw [rxRead_byte _ rfl] at hrun
  refine ⟨_, rxchk, payload, ?lenHi, summed_received_keepsLen hlt rfl, hrun⟩
  exact hheld.lenHi

/-- A start byte that its check refuses (R124). -/
theorem Receiving.runSteps_wrongStart (h : Receiving op s n after) (hlt : bytes.length < n + 4)
    (hok : NotYetRefused n bytes) {b x : Byte} (hb : b ≠ x) (hrx : s.rxAnswers = deliver (bytes ++ [b]) ++ rest)
    {field : FrameField} (hfield : fieldAt n bytes.length = some field)
    (hcheck : ∀ u, decodeField n after field b u = .next (check (b == x) .invalidStartChar (summed b u))) :
    ∃ len rxchk payload, runSteps (bytes.length + 1) s =
      .next (raise .invalidStartChar (received n (bytes ++ [b]) rest len rxchk payload s)) := by
  obtain ⟨u, rxchk, payload, -, hu, hrun⟩ := h.runSteps_nextByte hlt hok hrx hfield
  exact ⟨u.len, rxchk, payload, by rw [hrun, hcheck, check_beq, if_neg hb, hu]⟩

/-- A whole frame whose checksum its check refuses (R123). -/
theorem Receiving.runSteps_wrongChecksum (h : Receiving op s n after) {p : List Byte} (hp : p.length = n) {x y : Byte}
    (hsum : be16 x y ≠ sumBytes (frameHead p)) (hrx : s.rxAnswers = deliver (frameHead p ++ [x, y]) ++ rest) :
    ∃ len rxchk payload, runSteps (frameHead p ++ [x, y]).length s =
      .next (raise .badChecksum (received n (frameHead p ++ [x, y]) rest len rxchk payload s)) := by
  subst hp
  have hlength : (frameHead p ++ [x]).length = p.length + 5 := by simp [length_frameHead]
  have hlast : (frameHead p ++ [x])[p.length + 4]? = some x := by rw [← length_frameHead, List.getElem?_concat_length]
  have htake : (frameHead p ++ [x]).take (p.length + 4) = frameHead p := by rw [← length_frameHead, List.take_left]
  have hframe : frameHead p ++ [x, y] = frameHead p ++ [x] ++ [y] := by simp
  obtain ⟨len, rxchk, payload, hheld, hrun⟩ :=
    h.runSteps_reads (bytes := frameHead p ++ [x]) (rest := .byte y :: rest) (by omega)
      (notYetRefused_frameHead h.bound [x]) (by simp [hrx, deliver])
  refine ⟨len, be16 x y, payload, ?_⟩
  rw [hframe, List.length_append, List.length_singleton, runSteps_add 1 hrun,
    runSteps_succ 0 (h.step_lastRead hlength hheld hlast y rest), htake, if_neg hsum, runSteps_zero]

/-- Reads up to the byte that a check refuses end the operation with the error of that check. -/
theorem Receiving.runSteps_refused (h : Receiving op s n after) {kind : ErrorKind} (hrefused : RefusedAs n bytes kind)
    (hrx : s.rxAnswers = deliver bytes ++ rest) :
    ∃ len rxchk payload,
      runSteps bytes.length s = .next (raise kind (received n bytes rest len rxchk payload s)) := by
  cases hrefused with
  | start1 hb =>
    exact h.runSteps_wrongStart (bytes := []) (by simp) (by simp [NotYetRefused]) hb hrx rfl fun _ => rfl
  | start2 hb =>
    exact h.runSteps_wrongStart (bytes := [0x42]) (by simp) (by simp [NotYetRefused]) hb hrx rfl fun _ => rfl
  | @length x y hlen =>
    obtain ⟨u, rxchk, payload, hhi, hu, hrun⟩ :=
      h.runSteps_nextByte (bytes := [0x42, 0x4D, x]) (by simp) (by simp [NotYetRefused]) hrx (field := .lenLo) rfl
    have hfield : setLo u.len y = x ++ y := by rw [setLo, hhi x rfl]
    refine ⟨setLo u.len y, rxchk, payload, hrun.trans ?_⟩
    rw [decodeField, check_length h.bound, hfield, if_neg hlen, hu]
    rfl
  | checksum hp hsum => exact h.runSteps_wrongChecksum hp hsum hrx

end

/-! From the acceptance on. -/

/-- The acceptance of DECODE: DEC has started, nothing was called or answered (R84, R120). -/
theorem Offered.startsReceiving {s : State} {r : Request} {later : List Request} {n : Byte} (h : Offered s r later)
    (hd : decodeRequest r = .ok (.decode n)) :
    ∃ t, step s = .next t ∧ Receiving .decode t n.toNat id ∧
      Accepts .decode { s with requests := later } t ∧ SameTransport { s with requests := later } t := by
  obtain ⟨_, _, _, _, hwf⟩ := decodeRequest_eq_ok hd
  have hn : n.toNat ≤ Config.maxPayload := of_decide_eq_true hwf
  have ht : acceptPart (.decode n) { s with requests := later } =
      some (beginDec n (accept .decode { s with requests := later })) := if_pos hn
  obtain ⟨_, ⟨⟩, accepts⟩ := acceptPart_accepts ht
  exact ⟨_, (h.step_ok hd).trans (exec_of_acceptPart h.idle ht),
    ⟨⟨rfl, h.free, h.noReset, rfl⟩, rfl, rfl, rfl, hn, rfl, rfl⟩, accepts, acceptPart_sameTransport ht⟩

/-- From `s` to `t` the transport was called as `calls` says, which left the answers `rest`, and the operation failed
(R203). -/
structure DecodeFailed (kind : ErrorKind) (calls : List Event) (rest : List RxAnswer) (s t : State) : Prop where
  phase : t.phase = .idle
  status : t.status = kind.code
  resultValid : t.resultValid = false
  responses : t.responses = s.responses ++ [{ status := kind.code, result := .absent }]
  visibleResult : t.visibleResult = .absent
  trace : t.trace = s.trace ++ calls
  rxAnswers : t.rxAnswers = rest
  txAnswers : t.txAnswers = s.txAnswers

theorem raise_decodeFailed {kind : ErrorKind} {calls : List Event} {rest : List RxAnswer} {s u : State}
    (hresponses : u.responses = s.responses) (htrace : u.trace = s.trace ++ calls) (hrx : u.rxAnswers = rest)
    (htx : u.txAnswers = s.txAnswers) : DecodeFailed kind calls rest s (raise kind u) :=
  ⟨rfl, rfl, rfl, congrArg (· ++ _) hresponses, raise_visibleResult kind u, htrace, hrx, htx⟩

section
variable {s : State} {r : Request} {later : List Request} {n : Byte} {bytes : List Byte} {rest : List RxAnswer}

/-- A frame that a check refuses, from the acceptance on. -/
theorem Offered.runSteps_refused (h : Offered s r later) (hd : decodeRequest r = .ok (.decode n)) {kind : ErrorKind}
    (hrefused : RefusedAs n.toNat bytes kind) (hrx : s.rxAnswers = deliver bytes ++ rest) :
    ∃ t, runSteps (bytes.length + 1) s = .next t ∧ DecodeFailed kind (readsOk bytes) rest s t := by
  obtain ⟨t, accepted, receiving, accepts, same⟩ := h.startsReceiving hd
  obtain ⟨len, rxchk, payload, hrun⟩ := receiving.runSteps_refused hrefused (same.rxAnswers.trans hrx)
  exact ⟨_, (runSteps_succ _ accepted).trans hrun,
    raise_decodeFailed accepts.responses (congrArg (· ++ _) same.trace) rfl same.txAnswers⟩

/-- A read that fails, from the acceptance on (R126). -/
theorem Offered.runSteps_failedRead (h : Offered s r later) (hd : decodeRequest r = .ok (.decode n))
    (hlt : bytes.length < n.toNat + 6) (hok : NotYetRefused n.toNat bytes)
    (hrx : s.rxAnswers = deliver bytes ++ .fail :: rest) :
    ∃ t, runSteps (bytes.length + 2) s = .next t ∧
      DecodeFailed .readFailure (readsOk bytes ++ [.read .fail]) rest s t := by
  obtain ⟨t, accepted, receiving, accepts, same⟩ := h.startsReceiving hd
  obtain ⟨len, rxchk, payload, field, -, -, hrun⟩ :=
    receiving.runSteps_nextRead hlt hok (same.rxAnswers.trans hrx)
  refine ⟨_, ((runSteps_succ _ accepted).trans hrun).trans (rxRead_fail _ rfl),
    raise_decodeFailed accepts.responses ?_ rfl same.txAnswers⟩
  rw [← List.append_assoc]
  exact congrArg (· ++ _ ++ _) same.trace

end

/-- Settles O29: the run of a frame that the check of its checksum refuses. -/
theorem wrongChecksumIsReported : Obligations.WrongChecksumIsReported := by
  intro s r later n p h l rest hoffered hd hp hsum hrx
  obtain ⟨t, hrun, failed⟩ := hoffered.runSteps_refused hd (.checksum hp hsum) hrx
  have steps : (frameHead p ++ [h, l]).length + 1 = n.toNat + 7 := by simp [length_frameHead, hp]
  exact ⟨t, steps ▸ hrun, failed.phase, failed.status, failed.resultValid, failed.responses, failed.visibleResult,
    failed.trace, failed.rxAnswers⟩

/-- Settles O30: the run of a frame that the check of its length field refuses. -/
theorem wrongLengthIsReported : Obligations.WrongLengthIsReported := by
  intro s r later n h l rest hoffered hd hlen hrx
  obtain ⟨t, hrun, failed⟩ := hoffered.runSteps_refused hd (.length hlen) hrx
  exact ⟨t, hrun, failed.phase, failed.status, failed.resultValid, failed.responses, failed.trace, failed.rxAnswers⟩

/-- Settles O31: the runs of the frames that the checks of the two start bytes refuse. -/
theorem wrongStartByteIsReported : Obligations.WrongStartByteIsReported := by
  intro s r later n b rest hoffered hd
  refine ⟨fun hb hrx => ?_, fun hb hrx => ?_⟩
  · obtain ⟨t, hrun, failed⟩ := hoffered.runSteps_refused hd (.start1 hb) hrx
    exact ⟨t, hrun, failed.phase, failed.status, failed.resultValid, failed.responses, failed.trace, failed.rxAnswers⟩
  · obtain ⟨t, hrun, failed⟩ := hoffered.runSteps_refused hd (.start2 hb) hrx
    exact ⟨t, hrun, failed.phase, failed.status, failed.resultValid, failed.responses, failed.trace, failed.rxAnswers⟩

/-- Settles O32: the run `Offered.runSteps_failedRead`. -/
theorem failedReadEndsTheOperation : Obligations.FailedReadEndsTheOperation := by
  intro s r later n bytes rest hoffered hd hlt hok hrx
  obtain ⟨t, hrun, failed⟩ := hoffered.runSteps_failedRead hd hlt hok hrx
  exact ⟨t, hrun, failed.phase, failed.status, failed.resultValid, failed.responses, failed.visibleResult,
    failed.trace.trans (List.append_assoc _ _ _).symm, failed.rxAnswers, failed.txAnswers⟩

/-- Settles O33: the flipped byte changes the sum, so the checksum that was kept is a wrong one. -/
theorem payloadBitFlipIsDetected : Obligations.PayloadBitFlipIsDetected := by
  rintro s r later n p _ j k b rest hoffered hd hp hb hk rfl hrx
  have flipped : b ^^^ BitVec.twoPow 8 k ≠ b := by
    intro h
    simpa [hk] using congrArg (BitVec.getLsbD · k) h
  have hsum : sumBytes (frameHead (p.set j (b ^^^ BitVec.twoPow 8 k))) ≠ sumBytes (frameHead p) := by
    rwa [Ne, sumBytes_frameHead_eq_iff List.length_set, sumBytes_set_eq_iff hb]
  obtain ⟨t, hrun, hphase, hstatus, _, _, hvisible, _⟩ :=
    wrongChecksumIsReported s r later n _ _ _ rest hoffered hd (List.length_set.trans hp)
      (by rw [append_hiByte_loByte]; exact hsum.symm) hrx
  exact ⟨t, hrun, hphase, hstatus, hvisible⟩

/-! The payload of an accepted frame. -/

/-- DECODE ends once its frame is accepted (R120, R127). -/
theorem step_of_decode_received {s : State} {p : List Byte} (h : Running .decode s) (hdec : s.step = .dec)
    (hidx : s.idx.toNat = s.explen.toNat + 6) (hresult : payloadPart s.payload s.plen.toNat = p) :
    step s = .next (complete (.payload p) s) := by
  rw [step_of_operation h.busy h.free (not_resetDue_of_nil h.noReset) (eq_sampled_of_nil h.noReset)
    (ofCode_eq_some h.operation) (.inl (by decide)), operationInstr, exec_decode_busy h.busy, if_pos hdec, if_pos hidx,
    hresult]

theorem payloadPart_eq {v : Vector Byte Config.maxPayload} {p : List Byte} {n : Nat} (hp : p.length = n)
    (h : ∀ j, j < n → v[j]? = p[j]?) : payloadPart v n = p := by
  apply List.ext_getElem?
  intro j
  by_cases hj : j < n
  · simpa [payloadPart, hj] using h j hj
  · simp [payloadPart, hj, hp]

/-- The reads of a frame that DEC accepts, and the completion (R120, R127). -/
theorem Receiving.runSteps_payload {s : State} {n : Byte} (h : Receiving .decode s n.toNat id) {p : List Byte}
    (hp : p.length = n.toNat) {rest : List RxAnswer} (hrx : s.rxAnswers = deliver (receivedFrame p) ++ rest) :
    ∃ len rxchk payload, payloadPart payload n.toNat = p ∧ runSteps (n.toNat + 7) s =
      .next (complete (.payload p) { received n.toNat (receivedFrame p) rest len rxchk payload s with plen := n }) := by
  obtain ⟨len, rxchk, payload, hpayload, hrun⟩ := h.runSteps_acceptedFrame hp hrx
  rw [BitVec.ofNat_toNat, BitVec.setWidth_eq, id_eq] at hrun
  have hresult : payloadPart payload n.toNat = p := payloadPart_eq hp hpayload
  have hn : n.toNat ≤ 26 := h.bound
  have hlength : (receivedFrame p).length = n.toNat + 6 := by simp [receivedFrame, length_frameHead, bytesOf, hp]
  have hidx : (BitVec.ofNat 8 (receivedFrame p).length).toNat = s.explen.toNat + 6 := by
    rw [hlength, h.explen, BitVec.toNat_ofNat, Nat.mod_eq_of_lt (by omega)]
  have ends := step_of_decode_received
    (s := { received n.toNat (receivedFrame p) rest len rxchk payload s with plen := n })
    ⟨h.busy, h.free, h.noReset, h.operation⟩ h.subOp hidx hresult
  exact ⟨len, rxchk, payload, hresult, (runSteps_add 1 hrun).trans (runSteps_succ 0 ends)⟩

/-- Settles O28: the acceptance, and `Receiving.runSteps_payload` from there. -/
theorem decodeReturnsThePayload : Obligations.DecodeReturnsThePayload := by
  intro s r later n p rest hoffered hd hp hrx
  obtain ⟨t, accepted, receiving, accepts, same⟩ := hoffered.startsReceiving hd
  obtain ⟨len, rxchk, payload, hresult, hrun⟩ := receiving.runSteps_payload hp (same.rxAnswers.trans hrx)
  refine ⟨_, (runSteps_succ _ accepted).trans hrun, rfl, rfl, rfl, accepts.requests, ?responses, ?visible, rfl, ?trace,
    rfl, same.txAnswers⟩
  case responses => exact congrArg (· ++ _) accepts.responses
  case visible =>
    rw [← hresult]
    exact complete_payload_visibleResult accepts.op
  case trace => exact congrArg (· ++ _) same.trace

/-- Settles O34: with the sum of its own payload kept, the changed frame is the one DEC accepts for it. -/
theorem sumKeepingChangeIsNotDetected : Obligations.SumKeepingChangeIsNotDetected := by
  intro s r later n p q rest hoffered hd hp hq hsum hrx
  rw [← (sumBytes_frameHead_eq_iff (hq.trans hp.symm)).2 hsum] at hrx
  obtain ⟨t, hrun, hphase, hstatus, hvalid, _, hresponses, hvisible, _⟩ :=
    decodeReturnsThePayload s r later n q rest hoffered hd hq hrx
  exact ⟨t, hrun, hphase, hstatus, hvalid, hresponses, hvisible⟩

end Sys2Proof.Machine

/-! ## EXTRACT (spec/42_extractor.md R150 to R153)

The twelve fields are read from bytes 0 to 23 (`measurementFields_congr`); what is left of an operation in EXT is
`extractAndComplete` with its source array (`exec_extract_of_ext`, `exec_get_of_ext`). -/

namespace Sys2Proof.Machine

/-- Arrays that agree on bytes 0 to 23 hold the same fields (R151). -/
theorem measurementFields_congr {n m : Nat} {a : Vector Byte n} {b : Vector Byte m} (ha : 24 ≤ n) (hb : 24 ≤ m)
    (h : ∀ (j : Nat) (_ : j < 24), a[j] = b[j]) : measurementFields a ha = measurementFields b hb := by
  apply Vector.ext
  intro i hi
  rw [measurementFields_getElem a ha i hi, measurementFields_getElem b hb i hi, h (2 * i) (by omega),
    h (2 * i + 1) (by omega)]

/-- A write of the reserved bytes leaves bytes 0 to 23 (R151). -/
theorem getElem_set_reserved (p : Operand) (x y : Byte) {j : Nat} (hj : j < 24) :
    ((p.set 24 x).set 25 y)[j] = p[j] := by
  rw [Vector.getElem_set_ne _ _ (by omega), Vector.getElem_set_ne _ _ (by omega)]

theorem measurementFields_set_reserved (p : Operand) (x y : Byte) :
    measurementFields ((p.set 24 x).set 25 y) (by decide) = measurementFields p (by decide) :=
  measurementFields_congr _ _ fun _ hj => getElem_set_reserved p x y hj

/-- In EXT, EXTRACT ends with the fields of its operand (R150). -/
theorem exec_extract_of_ext {s : State} (hp : s.phase = .busy) (hext : s.step = .ext) (a : Operand) :
    exec (.extract a) s = .next (extractAndComplete a (by decide) s) := by
  rw [exec_extract_busy hp, if_pos hext]

/-- In EXT, GET_PASSIVE and GET_ACTIVE end with the fields of PAYLOAD (R150, R171, R172). -/
theorem exec_get_of_ext {s : State} {i : Instr} (hi : i = .getPassive ∨ i = .getActive) (hp : s.phase = .busy)
    (hext : s.step = .ext) : exec i s = .next (extractAndComplete s.payload (by decide) s) := by
  rcases hi with rfl | rfl
  · simp only [exec_getPassive_busy hp, hext]
  · simp only [exec_getActive_busy hp, hext]

/-- Settles O37: the vector is `measurementFields` of the operand. -/
theorem extractCompletes : Obligations.ExtractCompletes := fun _ a hp hext =>
  ⟨measurementFields a (by decide), exec_extract_of_ext hp hext a, measurementFields_getElem a (by decide)⟩

/-- Settles O38: the outcome holds the source array through its fields alone, and these are the same. -/
theorem reservedBytesHaveNoEffect : Obligations.ReservedBytesHaveNoEffect := by
  refine ⟨fun s a b hp hagree => ?operand, fun s t i x y hi hp hext ht => ?payload⟩
  case operand =>
    have fields : measurementFields a (by decide) = measurementFields b (by decide) :=
      measurementFields_congr _ _ fun j hj => hagree ⟨j, hj⟩
    rw [exec_extract_busy hp, exec_extract_busy hp, extractAndComplete, extractAndComplete, fields]
  case payload =>
    rw [exec_get_of_ext hi hp hext] at ht
    cases ht
    rw [exec_get_of_ext hi (by exact hp) (by exact hext), extractAndComplete, measurementFields_set_reserved]
    rfl

/-- A step of EXTRACT in EXT ends it with the fields of OPBUF (R150). -/
theorem step_of_extract {s : State} (h : Running .extract s) (hext : s.step = .ext) :
    step s = .next (extractAndComplete s.opbuf (by decide) s) := by
  rw [step_of_operation h.busy h.free (not_resetDue_of_nil h.noReset) (eq_sampled_of_nil h.noReset)
    (ofCode_eq_some h.operation) (.inl (by decide)), operationInstr, exec_extract_of_ext h.busy hext]

/-- The acceptance of EXTRACT: EXT has started on the latched operand, nothing was called or answered (R84, R150). -/
theorem Offered.startsExtracting {s : State} {r : Request} {later : List Request} {a : Operand}
    (h : Offered s r later) (hd : decodeRequest r = .ok (.extract a)) :
    ∃ t, step s = .next t ∧ Running .extract t ∧ t.step = .ext ∧ t.opbuf = a ∧
      Accepts .extract { s with requests := later } t ∧ SameTransport { s with requests := later } t := by
  have ht : acceptPart (.extract a) { s with requests := later } =
      some (beginExt { accept .extract { s with requests := later } with opbuf := a }) := rfl
  obtain ⟨_, ⟨⟩, accepts⟩ := acceptPart_accepts ht
  exact ⟨_, (h.step_ok hd).trans (exec_of_acceptPart h.idle ht), ⟨rfl, h.free, h.noReset, rfl⟩, rfl, rfl, accepts,
    acceptPart_sameTransport ht⟩

/-- Settles O39: the acceptance, and `step_of_extract` from there. -/
theorem extractRunsToCompletion : Obligations.ExtractRunsToCompletion := by
  intro s r later a hoffered hd
  obtain ⟨t, accepted, running, hext, rfl, accepts, same⟩ := hoffered.startsExtracting hd
  have hrun : runSteps 2 s = .next (extractAndComplete t.opbuf (by decide) t) := by
    rw [runSteps_succ 1 accepted, runSteps_one, step_of_extract running hext]
  have hop : t.op ≠ Operation.decode.code := by
    rw [accepts.op]
    decide
  exact ⟨_, hrun, rfl, rfl, rfl, accepts.requests, rfl, complete_measurement_visibleResult _ hop,
    congrArg (· ++ _) accepts.responses, same.trace, same.txAnswers, same.rxAnswers⟩

end Sys2Proof.Machine

/-! ## The compound operations (spec/43_operations.md R170 to R176)

What is left of an operation in VER is `verifyAndComplete` with the echo it expects (`expectedEcho`, `exec_of_ver`). A
whole run is `Offered.runSteps_toReceiving` up to the start of DEC, and from there `Receiving.runSteps_echo` or
`Receiving.runSteps_measurement`. -/

namespace Sys2Proof.Machine

/-! The parts of an operation in BUSY. -/

/-- Settles O17: both sides have one frame part, so that both make the write of `exec_of_framePart`. -/
theorem compoundEncPartIsItsWireCommand : Obligations.CompoundEncPartIsItsWireCommand := by
  intro s m hp henc hidx
  have same {i j : Instr} {c : Byte} {d : Half} {after : State → State} (hi : framePart i = some (c, d, after))
      (hj : framePart j = some (c, d, after)) : exec i s = exec j s :=
    (exec_of_framePart hp hi henc hidx).trans (exec_of_framePart hp hj henc hidx).symm
  have sleepSet : framePart (.wireSleepSet (modeData m)) =
      some (Config.cmdSleepSet, modeData m, afterSleepSetFrame m) := by
    rw [framePart, extractLsb'_modeData]
  exact ⟨same rfl rfl, same rfl rfl, same rfl sleepSet⟩

/-- Settles O42: the step is `exec_get_of_ext`, and the vector is `measurementFields` of PAYLOAD. -/
theorem getCompletesWithMeasurement : Obligations.GetCompletesWithMeasurement := fun s _ hi hp hext =>
  ⟨measurementFields s.payload (by decide), exec_get_of_ext hi hp hext, measurementFields_getElem s.payload (by decide)⟩

/-- SLEEP_SET for Wakeup ends once its frame is sent (R173). -/
theorem exec_wakeup_of_sent {s : State} (hp : s.phase = .busy) (henc : s.step = .enc) (hidx : s.idx.toNat = 7) :
    exec (.sleepSet 1) s = .next (complete .empty s) := by
  simp only [exec_sleepSet_busy hp, henc, hidx, and_self, if_true]

/-- Settles O43: `exec_wakeup_of_sent`. -/
theorem wakeupCompletesAfterItsWrites : Obligations.WakeupCompletesAfterItsWrites := fun _ hp henc hidx =>
  exec_wakeup_of_sent hp henc (by rw [hidx]; rfl)

/-! The check of the echo. -/

/-- The command byte and the mode that an operation expects in PAYLOAD[0] and PAYLOAD[1], where it has a VER (R170, R173,
R174). -/
def expectedEcho : Instr → Option (Byte × Byte)
  | .setDataMode m => some (Config.cmdChangeMode, modeByte m)
  | .sleepSet m => if m = 0 then some (Config.cmdSleepSet, 0) else none
  | _ => none

/-- An operation that expects an echo is SET_DATA_MODE, or SLEEP_SET for Sleep. -/
theorem expectedEcho_cases {i : Instr} {c m : Byte} (h : expectedEcho i = some (c, m)) :
    (∃ b, i = .setDataMode b ∧ c = Config.cmdChangeMode ∧ m = modeByte b) ∨
      (i = .sleepSet 0 ∧ c = Config.cmdSleepSet ∧ m = 0) := by
  cases i with
  | setDataMode b =>
    cases h
    exact .inl ⟨b, rfl, rfl, rfl⟩
  | sleepSet b =>
    simp only [expectedEcho, Option.ite_none_right_eq_some] at h
    obtain ⟨rfl, ⟨⟩⟩ := h
    exact .inr ⟨rfl, rfl, rfl⟩
  | _ => cases h

/-- In VER an operation compares the echo with the one it expects, and ends (R174). -/
theorem exec_of_ver {i : Instr} {c m : Byte} {s : State} (hp : s.phase = .busy) (hver : s.step = .ver)
    (hecho : expectedEcho i = some (c, m)) : exec i s = .next (verifyAndComplete c m s) := by
  rcases expectedEcho_cases hecho with ⟨b, rfl, rfl, rfl⟩ | ⟨rfl, rfl, rfl⟩
  · simp only [exec_setDataMode_busy hp, hver]
  · simp only [exec_sleepSet_busy hp, hver, if_true]

/-- Settles O41: `exec_of_ver`, with the two outcomes of the comparison. -/
theorem echoIsVerified : Obligations.EchoIsVerified := by
  intro s i c m hi hp hver
  have hecho : expectedEcho i = some (c, m) := by
    rcases hi with ⟨rfl, rfl, rfl⟩ | ⟨rfl, rfl, rfl⟩ | ⟨rfl, rfl, rfl⟩ <;> rfl
  rw [exec_of_ver hp hver hecho, verifyAndComplete]
  refine ⟨fun hc hm => ?_, fun hne => by rw [if_pos hne]; rfl⟩
  rw [if_neg (not_or.2 ⟨not_not.2 hc, not_not.2 hm⟩)]
  rfl

/-- From `s` to `t` the reads `calls` were made, which left the answers `rest`, and the operation ended that expects the
echo `c`, `m` and received `x`, `y`: with an empty result where they are the same, else with UnexpectedResponse (R174). -/
structure EndedByEcho (c m x y : Byte) (calls : List Event) (rest : List RxAnswer) (s t : State) : Prop where
  phase : t.phase = .idle
  resultValid : t.resultValid = false
  requests : t.requests = s.requests
  txAnswers : t.txAnswers = s.txAnswers
  rxAnswers : t.rxAnswers = rest
  trace : t.trace = s.trace ++ calls
  matched : x = c ∧ y = m → t.status = 0 ∧ t.responses = s.responses ++ [{ status := 0, result := .empty }]
  unmatched : x ≠ c ∨ y ≠ m → t.status = 6 ∧ t.responses = s.responses ++ [{ status := 6, result := .absent }]

/-! Whole runs. -/

/-- With its frame sent, or past ENC, an operation runs as itself and as no wire command. -/
theorem Running.step_operation {op : Operation} {s : State} (h : Running op s)
    (hsent : s.step ≠ .enc ∨ 7 ≤ s.idx.toNat) : step s = exec (operationInstr op s) s :=
  step_of_operation h.busy h.free (not_resetDue_of_nil h.noReset) (eq_sampled_of_nil h.noReset)
    (ofCode_eq_some h.operation) (.inr hsent)

/-- The reads of a well-formed response frame, and the check of its echo (R120, R174). -/
theorem Receiving.runSteps_echo {op : Operation} {s : State} {c m : Byte} (h : Receiving op s 2 beginVer)
    (hecho : expectedEcho (operationInstr op s) = some (c, m)) {x y : Byte} {rest : List RxAnswer}
    (hrx : s.rxAnswers = deliver (receivedFrame [x, y]) ++ rest) :
    ∃ t, runSteps 9 s = .next t ∧ EndedByEcho c m x y (readsOk (receivedFrame [x, y])) rest s t := by
  obtain ⟨len, rxchk, payload, hpayload, hrun⟩ := h.runSteps_acceptedFrame (p := [x, y]) rfl hrx
  have hx : payload[0] = x := by simpa using hpayload 0 (by decide)
  have hy : payload[1] = y := by simpa using hpayload 1 (by decide)
  subst hx hy
  generalize hu : beginVer { received 2 (receivedFrame [payload[0], payload[1]]) rest len rxchk payload s with
    plen := BitVec.ofNat 8 2 } = u at hrun
  have running : Running op u := hu ▸ ⟨h.busy, h.free, h.noReset, h.operation⟩
  have hver : u.step = .ver := hu ▸ rfl
  have hinstr : operationInstr op u = operationInstr op s := by
    rw [← hu]
    cases op <;> rfl
  have ends : step u = .next (verifyAndComplete c m u) := by
    rw [running.step_operation (.inl (by rw [hver]; decide)), hinstr, exec_of_ver running.busy hver hecho]
  refine ⟨_, (runSteps_add 1 hrun).trans (runSteps_succ 0 ends), ?_⟩
  rcases verifyAndComplete_cases c m u with ⟨hc, hm, e⟩ | ⟨hne, e⟩ <;> rw [e] <;> subst hu
  · exact ⟨rfl, rfl, rfl, rfl, rfl, rfl, fun _ => ⟨rfl, rfl⟩, fun hne => absurd ⟨hc, hm⟩ (not_and_or.2 hne)⟩
  · exact ⟨rfl, rfl, rfl, rfl, rfl, rfl, fun hmatch => absurd hmatch (not_and_or.2 hne), fun _ => ⟨rfl, rfl⟩⟩

/-- Once the frame is sent that DEC(n) follows, the reads of DEC(n) come next (R170, R171, R173). -/
theorem Sending.receiving {op : Operation} {s : State} {c n : Byte} {d : Half} {after : State → State}
    (h : Sending op s c d (beginDec n)) (hrecv : receivePart (operationInstr op s) = some (n.toNat, after))
    (hn : n.toNat ≤ Config.maxPayload) (rest : List TxAnswer) :
    Receiving op (beginDec n (written c d 7 rest s)) n.toNat after := by
  have hwritten : operationInstr op (written c d 7 rest s) = operationInstr op s := by cases op <;> rfl
  have hinstr : operationInstr op (beginDec n (written c d 7 rest s)) = operationInstr op s :=
    (framePart_after_operationInstr h.frame _).trans hwritten
  exact ⟨⟨h.busy, h.free, h.noReset, h.operation⟩, by rw [hinstr, hrecv], rfl, rfl, hn, rfl, rfl⟩

/-- Acceptance and seven accepted writes, up to the start of DEC(n) (R170, R171, R173). -/
theorem Offered.runSteps_toReceiving {s t : State} {r : Request} {later : List Request} {txRest : List TxAnswer}
    {i : Instr} {op : Operation} {c n : Byte} {d : Half} {after : State → State}
    (h : Offered s r later) (hd : decodeRequest r = .ok i) (hi : acceptedOperation i = some op)
    (hframe : framePart i = some (c, d, beginDec n)) (hrecv : receivePart i = some (n.toNat, after))
    (hn : n.toNat ≤ Config.maxPayload) (ht : acceptPart i { s with requests := later } = some t)
    (htx : s.txAnswers = List.replicate 7 .ok ++ txRest) :
    runSteps 8 s = .next (beginDec n (written c d 7 txRest t)) ∧
      Receiving op (beginDec n (written c d 7 txRest t)) n.toNat after := by
  refine ⟨h.runSteps_frame hd hi hframe ht htx, ?_⟩
  exact (acceptPart_sending hi hframe ht h.free h.noReset).receiving (by rw [operationInstr_of_acceptPart hi ht, hrecv])
    hn txRest

/-- Settles O44: seven writes up to the start of DEC(2), then `Receiving.runSteps_echo`. -/
theorem setDataModeRun : Obligations.SetDataModeRun := by
  intro s r later m c e txRest rxRest hoffered hd htx hrx
  obtain ⟨sent, receiving⟩ :=
    hoffered.runSteps_toReceiving (op := .setDataMode) (n := 2) hd rfl rfl rfl (by decide) rfl htx
  obtain ⟨t, hrun, ended⟩ := receiving.runSteps_echo rfl hrx
  exact ⟨t, (runSteps_add 9 sent).trans hrun, ended.phase, ended.resultValid, ended.requests, ended.txAnswers,
    ended.rxAnswers, ended.trace, ended.matched, ended.unmatched⟩

/-- Settles O45: seven writes up to the start of DEC(26), then `Receiving.runSteps_measurement`. -/
theorem getPassiveRun : Obligations.GetPassiveRun := by
  intro s r later p txRest rxRest hoffered hd htx hrx
  obtain ⟨sent, receiving⟩ :=
    hoffered.runSteps_toReceiving (op := .getPassive) (n := 26) hd rfl rfl rfl (by decide) rfl htx
  obtain ⟨len, rxchk, hrun⟩ := receiving.runSteps_measurement (.inl rfl) hrx
  exact ⟨_, (runSteps_add 33 sent).trans hrun, rfl, rfl, rfl, rfl, rfl, rfl, rfl, rfl, rfl⟩

/-- Settles O46: the acceptance, then `Receiving.runSteps_measurement`. -/
theorem getActiveRun : Obligations.GetActiveRun := by
  intro s r later p rxRest hoffered hd hrx
  have accepted : step s = .next (activeStarted later s) :=
    (hoffered.step_ok hd).trans (exec_of_acceptPart hoffered.idle rfl)
  have receiving : Receiving .getActive (activeStarted later s) 26 beginExt :=
    ⟨⟨rfl, hoffered.free, hoffered.noReset, rfl⟩, rfl, rfl, rfl, by decide, rfl, rfl⟩
  obtain ⟨len, rxchk, hrun⟩ := receiving.runSteps_measurement (.inr rfl) hrx
  exact ⟨_, (runSteps_succ 33 accepted).trans hrun, rfl, rfl, rfl, rfl, rfl, rfl, rfl, rfl, rfl⟩

/-- After its frame Wakeup makes no call but ends (R173). -/
theorem step_of_wakeup_sent {s : State} (h : Running .sleepSet s) (hmode : s.mode = 1) (henc : s.step = .enc)
    (hidx : s.idx.toNat = 7) : step s = .next (complete .empty s) := by
  rw [h.step_operation (.inr hidx.ge), operationInstr, hmode, exec_wakeup_of_sent h.busy henc hidx]

/-- Settles O47: for Sleep as SET_DATA_MODE; for Wakeup seven writes, then `step_of_wakeup_sent`. -/
theorem sleepSetRun : Obligations.SleepSetRun := by
  intro s r later m txRest hoffered hd htx
  refine ⟨?sleep, ?wakeup⟩
  case sleep =>
    rintro c e rxRest rfl hrx
    obtain ⟨sent, receiving⟩ :=
      hoffered.runSteps_toReceiving (op := .sleepSet) (n := 2) hd rfl rfl rfl (by decide) rfl htx
    obtain ⟨t, hrun, ended⟩ := receiving.runSteps_echo rfl hrx
    exact ⟨t, (runSteps_add 9 sent).trans hrun, ended.phase, ended.resultValid, ended.requests, ended.txAnswers,
      ended.rxAnswers, ended.trace, ended.matched, ended.unmatched⟩
  case wakeup =>
    rintro rfl
    have sent := hoffered.runSteps_frame (op := .sleepSet) hd rfl rfl rfl htx
    have running : Running .sleepSet (written 0xE4 1 7 txRest (acceptSleepSet 1 { s with requests := later })) :=
      ⟨rfl, hoffered.free, hoffered.noReset, rfl⟩
    exact ⟨_, (runSteps_add 1 sent).trans (runSteps_succ 0 (step_of_wakeup_sent running rfl rfl rfl)), rfl, rfl, rfl,
      rfl, rfl, rfl, rfl, rfl⟩

end Sys2Proof.Machine

/-! ## The error conditions (spec/60_exceptions.md R200 to R209)

Where a step can take STATUS from is said once (`step_status_cases`), and a response holds the STATUS of the step that
gives it (`oneResponseWhenAnOperationEnds`). A call that has not returned holds the block as it is
(`runSteps_of_outstanding`). -/

namespace Sys2Proof.Machine

/-- No error kind has the code of EmptyData (R200, R202). -/
theorem code_ne_seven (kind : ErrorKind) : kind.code ≠ 7 := by
  cases kind <;> decide

/-- An operation that has made its calls ends with an error or with success (R203, R204). -/
theorem finishPart_status {i : Instr} {s t : State} {sub : SubOp} (h : finishPart i s = some (sub, t)) :
    t.status = 0 ∨ ∃ kind : ErrorKind, t.status = kind.code := by
  rcases finishPart_cases h with rfl | rfl | ⟨_, rfl⟩ | ⟨_, m, rfl⟩
  · exact .inr ⟨.unexpectedResponse, rfl⟩
  · exact .inl rfl
  · exact .inl rfl
  · exact .inl rfl

/-- A step leaves STATUS as it was, or writes the code of success or of an error kind (R200, R203, R204, R230). -/
theorem step_status_cases {s t : State} (h : step s = .next t) :
    t.status = s.status ∨ t.status = 0 ∨ ∃ kind : ErrorKind, t.status = kind.code := by
  by_cases hr : ResetDue s
  · obtain ⟨rest, hline⟩ := hr
    rw [step_of_reset hline] at h
    cases h
    exact .inr (.inl rfl)
  · obtain ⟨s', hs', hcases⟩ := step_cases hr h
    have hphase : s'.phase = s.phase := by rw [hs']
    have hstatus : s'.status = s.status := by rw [hs']
    rcases hcases with ⟨rfl, _⟩ | ⟨_, _, _, _, _, _, haccept⟩ | ⟨_, hbusy, _, _, hexec⟩
    · exact .inl hstatus
    · obtain ⟨_, _, accepted⟩ := acceptPart_accepts haccept
      exact .inl (accepted.status.trans hstatus)
    · rcases exec_busy_keeps (hphase.trans hbusy) hexec with (kept | ⟨kind, _, _, rfl⟩) | hfin
      · exact .inl (kept.status.trans hstatus)
      · exact .inr (.inr ⟨kind, rfl⟩)
      · exact .inr (finishPart_status hfin)

/-- What a step adds to the responses holds the STATUS it leaves; a reset adds nothing (R38, R231). -/
theorem mem_responses_of_step {s t : State} (h : step s = .next t) {r : Response} (hmem : r ∈ t.responses) :
    r ∈ s.responses ∨ r.status = t.status := by
  by_cases hr : ResetDue s
  · obtain ⟨rest, hline⟩ := hr
    rw [step_of_reset hline] at h
    cases h
    exact .inl hmem
  · rcases oneResponseWhenAnOperationEnds s t hr h with ⟨_, given⟩ | ⟨_, unchanged, _⟩
    · rw [given, List.mem_append, List.mem_singleton] at hmem
      exact hmem.imp_right (congrArg Response.status)
    · exact .inl (unchanged ▸ hmem)

/-- Settles O50: STATUS is kept or is a code other than 7 (`step_status_cases`), and a new response holds STATUS. -/
theorem emptyDataIsNeverProduced : Obligations.EmptyDataIsNeverProduced := by
  intro s t hstatus hresponses h
  have hne : t.status ≠ 7 := by
    rcases step_status_cases h with kept | success | ⟨kind, failed⟩
    · exact kept ▸ hstatus
    · rw [success]
      decide
    · exact failed ▸ code_ne_seven kind
  refine ⟨hne, fun r hmem => ?_⟩
  rcases mem_responses_of_step h hmem with old | new
  · exact hresponses r old
  · exact new ▸ hne

/-- Settles O52, by `runSteps_of_outstanding`: the one step of a stuck block leads back to its state, so by induction
every number of steps does. -/
theorem outstandingCallBlocksForEver : Obligations.OutstandingCallBlocksForEver :=
  fun _ k hbusy houtstanding hline => runSteps_of_outstanding k hbusy houtstanding hline

end Sys2Proof.Machine

/-! ## Reset (spec/70_reset_and_hazards.md R230 to R232)

`step_of_reset` names the state a reset leads to, and its registers are those of `State.reset`. What is left to say is
what becomes of a call that has not returned: its place in the trace, and the answer that a read may take. -/

namespace Sys2Proof.Machine

/-- A call that has not returned ends the trace (R105, R231). -/
theorem State.observedTrace_of_pending {s : State} {c : Call} (h : s.pending = some c) :
    s.observedTrace = s.trace ++ [c.abandoned] := by
  simp [State.observedTrace, h]

/-- Only a read that has not returned can take an answer as it is abandoned (R231; log 6). -/
theorem State.pending_of_abandonedReadConsumes {s : State} (h : s.abandonedReadConsumes = true) :
    s.pending = some .read := by
  rw [State.abandonedReadConsumes, Bool.and_eq_true, decide_eq_true_eq] at h
  exact h.1

/-- Reset leaves the answers to the reads, but for the one that an abandoned read may have taken (R231; log 6). -/
theorem takeReset_rxAnswers_cases (s : State) :
    (takeReset s).rxAnswers = s.rxAnswers ∨
      (s.pending = some .read ∧ (takeReset s).rxAnswers = s.rxAnswers.tail) := by
  rw [takeReset_rxAnswers]
  split
  case isTrue consumes => exact .inr ⟨State.pending_of_abandonedReadConsumes consumes, List.drop_one⟩
  case isFalse => exact .inl rfl

/-- Settles O54: the step is `takeReset`; the answers to the reads by `takeReset_rxAnswers_cases`, the trace by whether a
call is outstanding and by which call it is. -/
theorem resetAbandonsTheOperation : Obligations.ResetAbandonsTheOperation := by
  intro s rest hline
  refine ⟨_, step_of_reset hline, rfl, rfl, rfl, rfl, rfl, rfl, rfl, rfl,
    takeReset_rxAnswers_cases { s with resetLine := rest }, ?noCall, ?write, ?read⟩
  case noCall => exact fun hfree => State.observedTrace_of_pending_none hfree
  case write => exact fun b hwrite => State.observedTrace_of_pending hwrite
  case read => exact fun hread => State.observedTrace_of_pending hread

/-- Settles O53: the three values that R230 gives are those of the definition of `State.reset`. -/
theorem resetValues : Obligations.ResetValues := ⟨rfl, rfl, rfl⟩

/-- Settles O55: the reset state is in IDLE with no call outstanding, so that only STATUS, PLEN and RESULT_VALID are left
of the invariant. -/
theorem invariantAtReset : Obligations.InvariantAtReset :=
  machineInv_of_idle (by decide) (by decide) nofun rfl rfl

end Sys2Proof.Machine
